-- ==== Sys2Proof/Word.lean ====
section
/-! DEFINITION. The words of the CAN frame deserializer: bit sequences (rule R9), octets, and the 130 cells
of the input port and of the bit buffer (rules R22, R35). -/

namespace Sys2Proof

/-- An octet, as a bytes message of the normalizer holds them (rule R120). -/
abbrev Byte := BitVec 8

/-- A bit sequence (rule R9): a finite list of bits, index 0 first in wire order; `true` is 1. -/
abbrev BitSeq := List Bool

/-- The 130 one-bit cells of `in_bits` and of `BUF` (rules R22, R35): cell `i` is bit `i` of the vector,
so cell 0, the first bit in wire order, is its least significant bit (notes/assumptions/1.md). -/
abbrev Cells := BitVec 130

end Sys2Proof
end

