-- ==== Sys2Proof/Config.lean ====
section
/-! DEFINITION. The implementation parameters of rule R8: the fixed widths, the sensor types the classification
table maps to, the table's type, and the open parameter STEP_CYCLES. -/

namespace Sys2Proof

/-- The source's closed set of sensor types (rules R8, R96). -/
inductive SensorType where
  | temperature
  | acceleration
  | wheelSpeed
  | suspension
  | fuelLevel
  deriving DecidableEq, Repr

/-- `SENSOR_MAP` (rules R8, R36, D26) as plain data: the pairs of an ID and its type, of which the first pair of an
ID counts and an ID without a pair is unmapped. Every partial map from 11-bit IDs to types is such a list. -/
abbrev SensorMap := List (BitVec 11 × SensorType)

namespace Config

/-- `MAX_BITS` (rule R8): the longest canonical bit sequence, and the number of cells of `BUF` (rule R22). -/
@[simp] abbrev maxBits : Nat := 130

/-- `STEP_CYCLES` (rules R8, R276, D27): clock cycles of one micro-step. Open, and no rule depends on it, so it has
no body and nothing in the model reads it (notes/assumptions/9.md). -/
opaque stepCycles : Nat

end Config

end Sys2Proof
end

