-- ==== Sys2Proof/Syntax.lean ====
section
/-! DEFINITION. The operations of spec/opcode_table.json, one constructor a row (rule R101), and the words of its
four formats, as the ports, the cursor and the `STATE` register carry them (rules R90 to R93). -/

namespace Sys2Proof

/-- One constructor for each row of spec/opcode_table.json, in the table's order. -/
inductive Instr where
  /-- host_cmd 00, rule R211. -/
  | nop
  /-- host_cmd 01, rule R212: the ports `in_len` and `in_bits` of the same host step (rule R210). -/
  | decode (inLen : BitVec 8) (inBits : Cells)
  /-- host_cmd 10, rule R213. -/
  | decodeFull (inLen : BitVec 8) (inBits : Cells)
  /-- host_cmd 11, rule R214. -/
  | reservedCmd
  /-- input_shape 00, rule R121. -/
  | normText (s : List Char)
  /-- input_shape 01, rule R122. -/
  | normBytes (b : List Byte)
  /-- input_shape 10, rule R123. -/
  | normInt (v : Int)
  /-- cursor_op 0nnnnnnn, rule R141; a count that the word can hold is at most 127. -/
  | take (n : Nat)
  /-- cursor_op 1nnnnnnn, rule R142. -/
  | takeUint (n : Nat)
  /-- fsm_state 0, rule R160. -/
  | sIdle
  /-- fsm_state 1, rule R161. -/
  | sSof
  /-- fsm_state 2, rule R162. -/
  | sArbId
  /-- fsm_state 3, rule R163. -/
  | sClassify
  /-- fsm_state 4, rule R164. -/
  | sRtr
  /-- fsm_state 5, rule R165. -/
  | sIde
  /-- fsm_state 6, rule R166. -/
  | sSrr
  /-- fsm_state 7, rule R167. -/
  | sExtId
  /-- fsm_state 8, rule R168. -/
  | sRtr2
  /-- fsm_state 9, rule R169. -/
  | sReserved
  /-- fsm_state 10, rule R170. -/
  | sDlc
  /-- fsm_state 11, rule R171. -/
  | sData
  /-- fsm_state 12, rule R172. -/
  | sCrc
  /-- fsm_state 13, rule R173. -/
  | sCrcDel
  /-- fsm_state 14, rule R174. -/
  | sAck
  /-- fsm_state 15, rule R175. -/
  | sAckDel
  /-- fsm_state 16, rule R176. -/
  | sEof
  /-- fsm_state 17, rule R177. -/
  | sIfs
  /-- fsm_state 18, rule R178. -/
  | sDone
  /-- fsm_state 19, rule R179. -/
  | sError
  deriving DecidableEq, Repr

/-- The four formats of rule R101. -/
inductive Format where
  | hostCmd
  | inputShape
  | cursorOp
  | fsmState
  deriving DecidableEq, Repr

/-- A raw message beside its shape tag (rule R120): the operand of each of the three shapes, of which only the one
the tag names is read. -/
structure RawOperands where
  text  : List Char
  bytes : List Byte
  int   : Int
  deriving DecidableEq, Repr

/-- One word of a format with the operands that come beside it: the host step's triple (cmd, in_len, in_bits)
(rule R210), a raw message under its tag (rule R93), the cursor's 8-bit word (rule R91), or a `STATE` code (rule R90).
The format is not part of the word (rule R101: a decoder matches within the row's format). -/
inductive CodeWord where
  | hostCmd (cmd : BitVec 2) (inLen : BitVec 8) (inBits : Cells)
  | inputShape (tag : BitVec 2) (raw : RawOperands)
  | cursorOp (word : BitVec 8)
  | fsmState (code : BitVec 5)
  deriving DecidableEq, Repr

end Sys2Proof
end

