-- ==== Sys2Proof/Machine/Types.lean ====
section
/-! DEFINITION. The plain data the machine speaks of beside its registers: the five errors (rule R13), the decoded
frame (rule R80), and what the normalizer, the cursor and the library calls return (rules R120, R141, R142, R218). -/

namespace Sys2Proof.Machine

/-- The fields whose value is fixed (rules R94, R233). -/
inductive FixedField where
  | startOfFrame
  | crcDelimiter
  | ackDelimiter
  deriving DecidableEq, Repr

/-- The five named errors with their arguments (rules R13, R230 to R235). -/
inductive DecodeError where
  | frameTooLong (observedLength : Nat)
  | insufficientBits (requested available : Nat)
  | invalidFixedBit (field : FixedField) (observed : Nat)
  | unknownArbitrationId (id : Nat)
  | malformedInput
  deriving DecidableEq, Repr

/-- The Frame record (rules R27, R80): `none` is an absent field (rule R28). -/
structure Frame where
  sof  : BitVec 1
  arb  : BitVec 11
  rtr  : BitVec 1
  ide  : BitVec 1
  srr  : Option (BitVec 1)
  ext  : Option (BitVec 18)
  rsv  : BitVec 1
  dlc  : BitVec 4
  data : BitVec 120
  crc  : BitVec 15
  crcd : BitVec 1
  ack  : BitVec 1
  ackd : BitVec 1
  eof  : BitVec 7
  ifs  : BitVec 3
  deriving DecidableEq, Repr

/-- A raw message of one of the three shapes (rule R120). -/
inductive RawInput where
  | text (s : List Char)
  | bytes (b : List Byte)
  | int (v : Int)
  deriving DecidableEq, Repr

/-- What the normalizer returns (rule R120): a bit sequence or one of its two errors. -/
inductive NormResult where
  | ok (bits : BitSeq)
  | malformedInput
  | frameTooLong (observedLength : Nat)
  deriving DecidableEq, Repr

/-- What a cursor operation returns (rules R141, R142). -/
inductive CursorValue where
  | bits (s : BitSeq)
  | uint (v : Nat)
  deriving DecidableEq, Repr

/-- What a library call returns (rule R218): the reduced or the full result, or an error. -/
inductive CallResult where
  | reduced (t : SensorType) (data : BitVec 120)
  | full (t : SensorType) (f : Frame)
  | error (e : DecodeError)
  deriving DecidableEq, Repr

end Sys2Proof.Machine
end

