-- ==== Sys2Proof/Machine/Codes.lean ====
section
/-! DEFINITION. The numeric codes of rules R90 and R94 to R96, their inverses, and the default classification
table of rule R36. -/

namespace Sys2Proof.Machine

/-! The codes of the `STATE` register (rule R90). -/
namespace Fsm

@[simp] abbrev idle : BitVec 5 := 0#5
@[simp] abbrev sof : BitVec 5 := 1#5
@[simp] abbrev arbId : BitVec 5 := 2#5
@[simp] abbrev classify : BitVec 5 := 3#5
@[simp] abbrev rtr : BitVec 5 := 4#5
@[simp] abbrev ide : BitVec 5 := 5#5
@[simp] abbrev srr : BitVec 5 := 6#5
@[simp] abbrev extId : BitVec 5 := 7#5
@[simp] abbrev rtr2 : BitVec 5 := 8#5
@[simp] abbrev reserved : BitVec 5 := 9#5
@[simp] abbrev dlc : BitVec 5 := 10#5
@[simp] abbrev data : BitVec 5 := 11#5
@[simp] abbrev crc : BitVec 5 := 12#5
@[simp] abbrev crcDel : BitVec 5 := 13#5
@[simp] abbrev ack : BitVec 5 := 14#5
@[simp] abbrev ackDel : BitVec 5 := 15#5
@[simp] abbrev eof : BitVec 5 := 16#5
@[simp] abbrev ifs : BitVec 5 := 17#5
@[simp] abbrev done : BitVec 5 := 18#5
@[simp] abbrev error : BitVec 5 := 19#5

end Fsm

/-- Field-name codes of `InvalidFixedBit` (rule R94). -/
def FixedField.code : FixedField → Nat
  | .startOfFrame => 1
  | .crcDelimiter => 2
  | .ackDelimiter => 3

/-- The source's strings for the fixed fields, which are normative (rule R94). -/
def FixedField.name : FixedField → String
  | .startOfFrame => "Start of Frame"
  | .crcDelimiter => "CRC Delimiter"
  | .ackDelimiter => "ACK Delimiter"

/-- The inverse of `FixedField.code`; codes 0 and 4 and above are never produced (rule R94). -/
def fixedFieldOf (code : Nat) : Option FixedField :=
  if code = 1 then some .startOfFrame
  else if code = 2 then some .crcDelimiter
  else if code = 3 then some .ackDelimiter
  else none

/-- `ERR_KIND` codes (rule R95). -/
def DecodeError.kind : DecodeError → BitVec 3
  | .frameTooLong _ => 1#3
  | .insufficientBits _ _ => 2#3
  | .invalidFixedBit _ _ => 3#3
  | .unknownArbitrationId _ => 4#3
  | .malformedInput => 5#3

/-- The first argument as `ERR_A` holds it (rule R95). -/
def DecodeError.argA : DecodeError → BitVec 16
  | .frameTooLong n => BitVec.ofNat 16 n
  | .insufficientBits requested _ => BitVec.ofNat 16 requested
  | .invalidFixedBit f _ => BitVec.ofNat 16 f.code
  | .unknownArbitrationId id => BitVec.ofNat 16 id
  | .malformedInput => 0#16

/-- The second argument as `ERR_B` holds it (rule R95). -/
def DecodeError.argB : DecodeError → BitVec 8
  | .frameTooLong _ => 0#8
  | .insufficientBits _ available => BitVec.ofNat 8 available
  | .invalidFixedBit _ v => BitVec.ofNat 8 v
  | .unknownArbitrationId _ => 0#8
  | .malformedInput => 0#8

/-- `error_of` of rule R218: the error the registers name by rule R95, where they name one. -/
def errorOf (kind : BitVec 3) (a : BitVec 16) (b : BitVec 8) : Option DecodeError :=
  if kind = 1#3 then some (.frameTooLong a.toNat)
  else if kind = 2#3 then some (.insufficientBits a.toNat b.toNat)
  else if kind = 3#3 then (fixedFieldOf a.toNat).map (fun f => .invalidFixedBit f b.toNat)
  else if kind = 4#3 then some (.unknownArbitrationId a.toNat)
  else if kind = 5#3 then some .malformedInput
  else none

/-- `SENSOR` codes (rule R96); 0 means no classification. -/
def sensorCode : SensorType → BitVec 3
  | .temperature => 1#3
  | .acceleration => 2#3
  | .wheelSpeed => 3#3
  | .suspension => 4#3
  | .fuelLevel => 5#3

/-- `sensor_of` of rule R218: the inverse of `sensorCode`. -/
def sensorOf (code : BitVec 3) : Option SensorType :=
  if code = 1#3 then some .temperature
  else if code = 2#3 then some .acceleration
  else if code = 3#3 then some .wheelSpeed
  else if code = 4#3 then some .suspension
  else if code = 5#3 then some .fuelLevel
  else none

/-- The default table of rules R8 and R36; every other ID is unmapped. -/
def defaultSensorMap : SensorMap :=
  [(1#11, .temperature), (2#11, .acceleration), (3#11, .wheelSpeed), (4#11, .suspension), (5#11, .fuelLevel)]

/-- `SENSOR_MAP(id)` (rules R36, R163): the type of the ID's first pair, `none` for an unmapped ID. -/
def lookupSensor (map : SensorMap) (id : BitVec 11) : Option SensorType :=
  match map with
  | [] => none
  | (k, t) :: rest => if k = id then some t else lookupSensor rest id

end Sys2Proof.Machine
end

