-- ==== Sys2Proof/Machine/State.lean ====
section
/-! DEFINITION. The machine's state as plain data: the block's tuple of rule R20, the classification table it is
configured with, and beside them the host's side and the schedule (the model's own fields, notes/assumptions/2.md
to 5.md); the reasons a step can stop; and the state after reset (rule R38). -/

namespace Sys2Proof.Machine

/-- The block's state tuple, whole (rule R20: nothing else is state of the block). -/
structure Block where
  /-- `STATE`, rule R25: the codes of rule R90. -/
  state   : BitVec 5
  /-- `MODE`, rule R26: 0 reduced, 1 full. -/
  mode    : BitVec 1
  /-- `BUF`, rule R22. -/
  buf     : Cells
  /-- `LEN`, rule R23. -/
  len     : BitVec 8
  /-- `POS`, rule R24. -/
  pos     : BitVec 8
  /-- `F_SOF`, rule R27. -/
  fSof    : BitVec 1
  /-- `F_ARB`, rule R27. -/
  fArb    : BitVec 11
  /-- `F_RTR`, rules R27, R29. -/
  fRtr    : BitVec 1
  /-- `F_IDE`, rule R27. -/
  fIde    : BitVec 1
  /-- `F_SRR`, rules R27, R28. -/
  fSrr    : BitVec 1
  /-- `F_SRR_V`, rule R28. -/
  fSrrV   : BitVec 1
  /-- `F_EXT`, rules R27, R28. -/
  fExt    : BitVec 18
  /-- `F_EXT_V`, rule R28. -/
  fExtV   : BitVec 1
  /-- `F_RSV`, rule R27. -/
  fRsv    : BitVec 1
  /-- `F_DLC`, rule R27. -/
  fDlc    : BitVec 4
  /-- `F_DATA`, rule R27. -/
  fData   : BitVec 120
  /-- `F_CRC`, rule R27. -/
  fCrc    : BitVec 15
  /-- `F_CRCD`, rule R27. -/
  fCrcd   : BitVec 1
  /-- `F_ACK`, rule R27. -/
  fAck    : BitVec 1
  /-- `F_ACKD`, rule R27. -/
  fAckd   : BitVec 1
  /-- `F_EOF`, rule R27. -/
  fEof    : BitVec 7
  /-- `F_IFS`, rule R27. -/
  fIfs    : BitVec 3
  /-- `SENSOR`, rule R30: the codes of rule R96. -/
  sensor  : BitVec 3
  /-- `ERR_KIND`, rule R31: the codes of rule R95. -/
  errKind : BitVec 3
  /-- `ERR_A`, rule R31. -/
  errA    : BitVec 16
  /-- `ERR_B`, rule R31. -/
  errB    : BitVec 8
  /-- `OVR`, rule R32. -/
  ovr     : BitVec 1
  deriving DecidableEq, Repr

/-- What the host does next (rule R100): one host step on the ports (rule R210), the normalizer on its own
(rule R120), or a library call (rule R218), which becomes `issue` once its message is normalized and `collect` once
its command is issued. -/
inductive HostOp where
  | drive (cmd : BitVec 2) (inLen : BitVec 8) (inBits : Cells)
  | normalize (tag : BitVec 2) (raw : RawOperands)
  | call (full : Bool) (tag : BitVec 2) (raw : RawOperands)
  | issue (full : Bool)
  | collect (full : Bool)
  deriving DecidableEq, Repr

/-- Who moves next (rule R6): the host one host step (rule R210), the block one micro-step (rule R181), reset
(rule R260), or the cursor one operation word on its own, as the cursor vectors of 95_test_vectors.md run it
(notes/assumptions/4.md: no port of the block can do this). -/
inductive Turn where
  | host
  | block
  | reset
  | cursor (word : BitVec 8)
  deriving DecidableEq, Repr

/-- The whole machine. Only `block` is the block's state (rule R20). -/
structure State where
  /-- The block (rule R20). -/
  block     : Block
  /-- `SENSOR_MAP` (rule R36), the configuration; no step writes it. -/
  sensorMap : SensorMap
  /-- The host's program, next operation first (rule R100); the model's own field. -/
  program   : List HostOp
  /-- The schedule, next turn first (rule R6); the model's own field. -/
  turns     : List Turn
  /-- What the normalizer returned last to the host (rule R120); the model's own field. -/
  norm      : Option NormResult
  /-- What a cursor operation issued on its own returned (rules R141, R142); the model's own field. -/
  taken     : Option CursorValue
  /-- What the last finished library call returned (rule R218); the model's own field. -/
  returned  : Option CallResult
  deriving DecidableEq, Repr

/-- Reasons to stop in a state no run from reset reaches; the spec's own errors are no faults but next states
(rule R236). -/
inductive Fault where
  /-- Raised by `TAKE`, and so by every reading state: `POS > LEN`, against rule R24, so that `LEN - POS` is no
  count. Safe: the model stops where the spec gives no result. -/
  | cursorPastLength
  /-- Raised by `memRead`: it would pass cell `LEN - 1`, where rule R60 defines no value; a fault there is the model's
  choice (notes/assumptions/8.md). No step raises it, since `TAKE` checks first (rule R60). Safe: the model stops. -/
  | pastSequence
  /-- Raised by the cursor's read: it would pass cell 129, the last there is (rule R61). Only possible with
  `LEN > 130`, against rule R23. Safe: the model stops. -/
  | noSuchCell
  deriving DecidableEq, Repr

/-- Refusals: the spec gives such a state no meaning. All are safe, and unreachable from reset. -/
inductive Refusal where
  /-- An instruction that has no meaning yet; raised by `exec` alone. Safe. -/
  | notModelled (mnemonic : String)
  /-- Raised by `step`: `STATE` holds a code from 20 to 31 (rule R180). Safe. -/
  | reservedState
  /-- Raised by `step`: `ERR_KIND` holds 5, 6 or 7, which the block never writes (rule R95, I12). Safe. -/
  | reservedErrorKind
  /-- Raised by `step`: `ERR_KIND` is 3 and `ERR_A` is no field-name code (rule R94, I14). Safe. -/
  | reservedFieldName
  /-- Raised by `step`: `SENSOR` holds 6 or 7 (rule R96, I13). Safe. -/
  | reservedSensor
  /-- Raised by `step` when a library call collects: DONE without a sensor code, against rule R30. Safe. -/
  | doneWithoutSensor
  /-- Raised by `step` when a library call collects: ERROR without an error code, against rule R39. Safe. -/
  | errorWithoutKind
  deriving DecidableEq, Repr

/-- The block after reset (rule R38, D23): `STATE = IDLE` and every other register 0. -/
def Block.reset : Block :=
  { state := Fsm.idle, mode := 0#1, buf := 0#130, len := 0#8, pos := 0#8
    fSof := 0#1, fArb := 0#11, fRtr := 0#1, fIde := 0#1, fSrr := 0#1, fSrrV := 0#1, fExt := 0#18, fExtV := 0#1
    fRsv := 0#1, fDlc := 0#4, fData := 0#120, fCrc := 0#15, fCrcd := 0#1, fAck := 0#1, fAckd := 0#1
    fEof := 0#7, fIfs := 0#3, sensor := 0#3, errKind := 0#3, errA := 0#16, errB := 0#8, ovr := 0#1 }

/-- The machine right after reset (rules R38, R261): the block reset, the default table (rule R36), and a host that
has done nothing yet (notes/assumptions/3.md). -/
def State.reset : State :=
  { block := Block.reset, sensorMap := defaultSensorMap, program := [], turns := [], norm := none, taken := none
    returned := none }

end Sys2Proof.Machine
end

