-- ==== Sys2Proof/Machine/Operands.lean ====
section
/-! DEFINITION. Operand assembly (rule R99): bit sequences as unsigned values (rule R10), the numeral-to-bit
conversion (rule R124), the cells of the buffer, the width of each field, the data width computed from the DLC
(rule R171), and the hand-off of a sequence to the ports (rule R131). -/

namespace Sys2Proof.Machine

/-- `uint(s)` (rule R10): the big-endian unsigned value, the first bit the most significant. -/
def uint : BitSeq → Nat
  | [] => 0
  | b :: s => b.toNat * 2 ^ s.length + uint s

/-- `BUF[p .. p+n)` (rule R9): `n` cells from index `p`, in wire order. -/
def slice (buf : Cells) (p : Nat) : Nat → BitSeq
  | 0 => []
  | n + 1 => buf.getLsbD p :: slice buf (p + 1) n

/-- The `k` low bits of a number, most significant first. -/
def lowBits (v : Nat) : Nat → BitSeq
  | 0 => []
  | k + 1 => v.testBit k :: lowBits v k

/-- `minbin(v)` (rule R124): `[0]` for 0, otherwise the shortest big-endian sequence of that value. -/
def minbin (v : Nat) : BitSeq :=
  if v = 0 then [false] else lowBits v (Nat.log2 v + 1)

/-- The number whose bit `i` is element `i` of the sequence. -/
def packCells : BitSeq → Nat
  | [] => 0
  | b :: s => b.toNat + 2 * packCells s

/-- `in_bits` of the hand-off (rule R131): cell `i` is `bits[i]`, and 0 from the sequence's end on. -/
def toPort (bits : BitSeq) : Cells := BitVec.ofNat 130 (packCells bits)

/-- `in_len` of the hand-off (rule R131). -/
def toPortLen (bits : BitSeq) : BitVec 8 := BitVec.ofNat 8 bits.length

/-- The widths the states read (rules R67, R90). -/
@[simp] abbrev bitWidth : Nat := 1
@[simp] abbrev idWidth : Nat := 11
@[simp] abbrev extWidth : Nat := 18
@[simp] abbrev dlcWidth : Nat := 4
@[simp] abbrev crcWidth : Nat := 15
@[simp] abbrev eofWidth : Nat := 7
@[simp] abbrev ifsWidth : Nat := 3

/-- The width of the data field (rules R84, R171): computed from the DLC just read. -/
def dataWidth (b : Block) : Nat := 8 * b.fDlc.toNat

/-- The bits that remain, `LEN - POS` (rule R24). -/
def remaining (b : Block) : Nat := b.len.toNat - b.pos.toNat

end Sys2Proof.Machine
end

