-- ==== Sys2Proof/Machine/Ops.lean ====
section
/-! DEFINITION. The named operations over the registers and the buffer: `goto`, error entry (rule R236), the latch
(rule R140), the cursor (rules R60, R141, R142), the rejection of a command (rule R214), and the shape shared by the
field-reading states. There is no return from an error beside the error entry: rule R240 says there is none. -/

namespace Sys2Proof.Machine

/-- How a meaning ends. -/
abbrev Result := Host.Outcome State Fault Refusal

/-- `goto S` (rule R12). -/
def Block.goto (b : Block) (c : BitVec 5) : Block := { b with state := c }

/-- `raise E` (rules R12, R236): the error registers name the error and the block enters ERROR; nothing else. -/
def Block.raise (b : Block) (e : DecodeError) : Block :=
  { b with errKind := e.kind, errA := e.argA, errB := e.argB, state := Fsm.error }

/-- The cursor moves past `n` bits (rule R141). -/
def Block.advance (b : Block) (n : Nat) : Block := { b with pos := BitVec.ofNat 8 (b.pos.toNat + n) }

/-- The rejection of a command (rule R214): `OVR <- 1` and nothing else. -/
def Block.reject (b : Block) : Block := { b with ovr := 1#1 }

/-- LATCH(m) (rule R140): the ports into `BUF` and `LEN` (0 for a length over 130), the cursor to 0, the mode set,
and every field, presence, classification, error and overrun register cleared. `STATE` is the command's to write. -/
def Block.latch (b : Block) (m : BitVec 1) (inLen : BitVec 8) (inBits : Cells) : Block :=
  { state := b.state, mode := m, buf := inBits
    len := if inLen.toNat ≤ Config.maxBits then inLen else 0#8
    pos := 0#8
    fSof := 0#1, fArb := 0#11, fRtr := 0#1, fIde := 0#1, fSrr := 0#1, fSrrV := 0#1, fExt := 0#18, fExtV := 0#1
    fRsv := 0#1, fDlc := 0#4, fData := 0#120, fCrc := 0#15, fCrcd := 0#1, fAck := 0#1, fAckd := 0#1
    fEof := 0#7, fIfs := 0#3, sensor := 0#3, errKind := 0#3, errA := 0#16, errB := 0#8, ovr := 0#1 }

/-- The state with another block: all a command, a cursor operation or a micro-step can change of the block. -/
def State.setBlock (s : State) (b : Block) : State := { s with block := b }

/-- The value a cursor operation issued on its own returned. -/
def State.setTaken (s : State) (v : CursorValue) : State := { s with taken := some v }

/-- The normalizer's result, as the host receives it; no block state is written (rule R120). -/
def State.setNorm (s : State) (r : NormResult) : State := { s with norm := some r }

/-- How a cursor operation ends: a value and the block after it, the block after error entry, or a fault. -/
inductive CursorResult (α : Type) where
  | ok (v : α) (b : Block)
  | raised (b : Block)
  | fault (r : Fault)

/-- The cells `BUF[p .. p+n)` of the sequence: rule R60 defines a read only up to `LEN`, and past cell 129 there is no
cell (rule R61). DESIGN CHOICE: a read that would pass either is a fault (notes/assumptions/8.md; safe). -/
def readCells (b : Block) (p n : Nat) : Except Fault BitSeq :=
  if b.len.toNat < p + n then .error .pastSequence
  else if p + n ≤ Config.maxBits then .ok (slice b.buf p n)
  else .error .noSuchCell

/-- `MemRead(p, n)` (rule R60): the unsigned value of the cells `BUF[p .. p+n)`. It changes nothing. The rule defines
it only for `p + n <= LEN`; otherwise it faults, as `readCells` does (notes/assumptions/8.md). -/
def memRead (b : Block) (p n : Nat) : Except Fault Nat := (readCells b p n).map uint

/-- TAKE(n) (rule R141): `InsufficientBits(n, LEN - POS)` when fewer than `n` bits remain, and otherwise the next
`n` bits and the cursor past them. -/
def take (n : Nat) (b : Block) : CursorResult BitSeq :=
  if b.len.toNat < b.pos.toNat then .fault .cursorPastLength
  else if remaining b < n then .raised (b.raise (.insufficientBits n (remaining b)))
  else
    match readCells b b.pos.toNat n with
    | .ok s => .ok s (b.advance n)
    | .error r => .fault r

/-- TAKE_UINT(n) (rule R142): TAKE's bits as one unsigned value. -/
def takeUint (n : Nat) (b : Block) : CursorResult Nat :=
  match take n b with
  | .ok s b' => .ok (uint s) b'
  | .raised b' => .raised b'
  | .fault r => .fault r

/-- A field-reading micro-step (42_field_walk.md): one TAKE_UINT of the field's width, whose value `write` puts into
the field's register, checks, and follows with a `goto` or a `raise`. An InsufficientBits ends the micro-step. -/
def fieldStep (n : Nat) (write : Nat → Block → Block) (s : State) : Result :=
  match takeUint n s.block with
  | .ok v b => .next (s.setBlock (write v b))
  | .raised b => .next (s.setBlock b)
  | .fault r => .fault r

end Sys2Proof.Machine
end

