-- ==== Sys2Proof/Machine/Flags.lean ====
section
/-! DEFINITION. The status word and its flags (rules R33, R34, R215), the result view on the output ports (rules R97,
R216), the reading of a port's frame back (rule R218), and the reserved register values a model refuses
(rules R94 to R96, R180; I11 to I14). -/

namespace Sys2Proof.Machine

/-- `STATE` is IDLE, DONE or ERROR, where the block accepts a command (rules R25, R214). -/
def Block.quiescent (b : Block) : Bool := b.state = Fsm.idle || b.state = Fsm.done || b.state = Fsm.error

/-- The block has an enabled micro-step: `STATE` is a code from 1 to 17 (rule R181). -/
def Block.enabled (b : Block) : Bool := decide (1 ≤ b.state.toNat) && decide (b.state.toNat ≤ 17)

/-- BUSY (rule R33). -/
def Block.busyFlag (b : Block) : BitVec 1 := if b.quiescent then 0#1 else 1#1

/-- DONE (rule R33). -/
def Block.doneFlag (b : Block) : BitVec 1 := if b.state = Fsm.done then 1#1 else 0#1

/-- ERR (rule R33). -/
def Block.errFlag (b : Block) : BitVec 1 := if b.state = Fsm.error then 1#1 else 0#1

/-- `STATUS` (rule R33): bits 15:10 read as 0, then MODE, OVR, ERR, DONE, BUSY and STATE. -/
def Block.status (b : Block) : BitVec 16 :=
  (0#6 ++ b.mode ++ b.ovr ++ b.errFlag ++ b.doneFlag ++ b.busyFlag ++ b.state).cast (by decide)

/-- `pack` (rule R97): the frame fields in wire order, the first at the most significant end, and without `data`. -/
def Block.pack (b : Block) : BitVec 68 :=
  (b.fSof ++ b.fArb ++ b.fRtr ++ b.fIde ++ b.fSrr ++ b.fSrrV ++ b.fExt ++ b.fExtV ++ b.fRsv ++ b.fDlc ++ b.fCrc ++
    b.fCrcd ++ b.fAck ++ b.fAckd ++ b.fEof ++ b.fIfs).cast (by decide)

/-- `res_sensor` (rule R216). -/
def Block.resSensor (b : Block) : BitVec 3 := if b.state = Fsm.done then b.sensor else 0#3

/-- `res_data` (rule R216). -/
def Block.resData (b : Block) : BitVec 120 := if b.state = Fsm.done then b.fData else 0#120

/-- `res_frame` (rule R216): shown only in full mode. -/
def Block.resFrame (b : Block) : BitVec 68 := if b.state = Fsm.done ∧ b.mode = 1#1 then b.pack else 0#68

/-- `frame_of` (rule R218): the ports' fields by the bit numbers of rule R97's table, a presence bit of 0 read as
absent. -/
def frameOf (f : BitVec 68) (data : BitVec 120) : Frame :=
  { sof := f.extractLsb' 67 1
    arb := f.extractLsb' 56 11
    rtr := f.extractLsb' 55 1
    ide := f.extractLsb' 54 1
    srr := if f.getLsbD 52 then some (f.extractLsb' 53 1) else none
    ext := if f.getLsbD 33 then some (f.extractLsb' 34 18) else none
    rsv := f.extractLsb' 32 1
    dlc := f.extractLsb' 28 4
    data := data
    crc := f.extractLsb' 13 15
    crcd := f.extractLsb' 12 1
    ack := f.extractLsb' 11 1
    ackd := f.extractLsb' 10 1
    eof := f.extractLsb' 3 7
    ifs := f.extractLsb' 0 3 }

/-- The refusal of a block that holds a value no rule writes: a reserved `STATE` (rule R180), `ERR_KIND` 5 to 7
(rule R95), a field-name code that names no field (rule R94), or `SENSOR` 6 or 7 (rule R96). -/
def Block.reservedValue (b : Block) : Option Refusal :=
  if 20 ≤ b.state.toNat then some .reservedState
  else if 5 ≤ b.errKind.toNat then some .reservedErrorKind
  else if b.errKind = 3#3 ∧ fixedFieldOf b.errA.toNat = none then some .reservedFieldName
  else if 6 ≤ b.sensor.toNat then some .reservedSensor
  else none

end Sys2Proof.Machine
end

