-- ==== Sys2Proof/Machine/CursorOps.lean ====
section
/-! DEFINITION. The cursor operations on their own (rules R141, R142), as the table's cursor_op rows name them and the
cursor vectors of 95_test_vectors.md run them. The field-reading states issue them inside their micro-step. -/

namespace Sys2Proof.Machine

/-- TAKE(n) (rule R141): the bits to whoever issued it, or error entry. -/
def execTake (n : Nat) (s : State) : Result :=
  match take n s.block with
  | .ok v b => .next ((s.setBlock b).setTaken (.bits v))
  | .raised b => .next (s.setBlock b)
  | .fault r => .fault r

/-- TAKE_UINT(n) (rule R142): the unsigned value to whoever issued it, or error entry. -/
def execTakeUint (n : Nat) (s : State) : Result :=
  match takeUint n s.block with
  | .ok v b => .next ((s.setBlock b).setTaken (.uint v))
  | .raised b => .next (s.setBlock b)
  | .fault r => .fault r

end Sys2Proof.Machine
end

