-- ==== Sys2Proof/Machine/FieldWalk.lean ====
section
/-! DEFINITION. The states of the field walk (rules R160 to R179), one micro-step each. -/

namespace Sys2Proof.Machine

/-- A quiescent state's turn: no micro-step, the block waits for a command (rules R160, R178, R179, R252). -/
def holdState (s : State) : Result := .next s

/-- S_IDLE (rule R160). -/
def execSIdle (s : State) : Result := holdState s

/-- S_SOF (rule R161): the bit must be 0. -/
def execSSof (s : State) : Result :=
  fieldStep bitWidth (fun v b =>
    let b := { b with fSof := BitVec.ofNat 1 v }
    if v ≠ 0 then b.raise (.invalidFixedBit .startOfFrame v) else b.goto Fsm.arbId) s

/-- S_ARB_ID (rule R162). -/
def execSArbId (s : State) : Result :=
  fieldStep idWidth (fun v b => { b with fArb := BitVec.ofNat 11 v }.goto Fsm.classify) s

/-- S_CLASSIFY (rule R163): the 11-bit ID alone is the key, and an unmapped ID is an error at once. -/
def execSClassify (s : State) : Result :=
  match lookupSensor s.sensorMap s.block.fArb with
  | none => .next (s.setBlock (s.block.raise (.unknownArbitrationId s.block.fArb.toNat)))
  | some t => .next (s.setBlock ({ s.block with sensor := sensorCode t }.goto Fsm.rtr))

/-- S_RTR (rule R164). -/
def execSRtr (s : State) : Result :=
  fieldStep bitWidth (fun v b => { b with fRtr := BitVec.ofNat 1 v }.goto Fsm.ide) s

/-- S_IDE (rule R165): the only branch. -/
def execSIde (s : State) : Result :=
  fieldStep bitWidth (fun v b =>
    let b := { b with fIde := BitVec.ofNat 1 v }
    if v = 1 then b.goto Fsm.srr else { b with fSrrV := 0#1, fExtV := 0#1 }.goto Fsm.reserved) s

/-- S_SRR (rule R166): the RTR bit already read, copied; no bit is read. -/
def execSSrr (s : State) : Result :=
  .next (s.setBlock ({ s.block with fSrr := s.block.fRtr, fSrrV := 1#1 }.goto Fsm.extId))

/-- S_EXT_ID (rule R167). -/
def execSExtId (s : State) : Result :=
  fieldStep extWidth (fun v b => { b with fExt := BitVec.ofNat 18 v, fExtV := 1#1 }.goto Fsm.rtr2) s

/-- S_RTR2 (rule R168): overwrites the first RTR. -/
def execSRtr2 (s : State) : Result :=
  fieldStep bitWidth (fun v b => { b with fRtr := BitVec.ofNat 1 v }.goto Fsm.reserved) s

/-- S_RESERVED (rule R169). -/
def execSReserved (s : State) : Result :=
  fieldStep bitWidth (fun v b => { b with fRsv := BitVec.ofNat 1 v }.goto Fsm.dlc) s

/-- S_DLC (rule R170). -/
def execSDlc (s : State) : Result :=
  fieldStep dlcWidth (fun v b => { b with fDlc := BitVec.ofNat 4 v }.goto Fsm.data) s

/-- S_DATA (rule R171): the width comes from the DLC just read. -/
def execSData (s : State) : Result :=
  fieldStep (dataWidth s.block) (fun v b => { b with fData := BitVec.ofNat 120 v }.goto Fsm.crc) s

/-- S_CRC (rule R172): recorded, not checked. -/
def execSCrc (s : State) : Result :=
  fieldStep crcWidth (fun v b => { b with fCrc := BitVec.ofNat 15 v }.goto Fsm.crcDel) s

/-- S_CRC_DEL (rule R173): the bit must be 1. -/
def execSCrcDel (s : State) : Result :=
  fieldStep bitWidth (fun v b =>
    let b := { b with fCrcd := BitVec.ofNat 1 v }
    if v ≠ 1 then b.raise (.invalidFixedBit .crcDelimiter v) else b.goto Fsm.ack) s

/-- S_ACK (rule R174). -/
def execSAck (s : State) : Result :=
  fieldStep bitWidth (fun v b => { b with fAck := BitVec.ofNat 1 v }.goto Fsm.ackDel) s

/-- S_ACK_DEL (rule R175): the bit must be 1. -/
def execSAckDel (s : State) : Result :=
  fieldStep bitWidth (fun v b =>
    let b := { b with fAckd := BitVec.ofNat 1 v }
    if v ≠ 1 then b.raise (.invalidFixedBit .ackDelimiter v) else b.goto Fsm.eof) s

/-- S_EOF (rule R176): recorded, not checked. -/
def execSEof (s : State) : Result :=
  fieldStep eofWidth (fun v b => { b with fEof := BitVec.ofNat 7 v }.goto Fsm.ifs) s

/-- S_IFS (rule R177): the last field; bits after it are ignored. -/
def execSIfs (s : State) : Result :=
  fieldStep ifsWidth (fun v b => { b with fIfs := BitVec.ofNat 3 v }.goto Fsm.done) s

/-- S_DONE (rule R178). -/
def execSDone (s : State) : Result := holdState s

/-- S_ERROR (rule R179). -/
def execSError (s : State) : Result := holdState s

end Sys2Proof.Machine
end

