-- ==== Sys2Proof/Machine/HostCommands.lean ====
section
/-! DEFINITION. The host commands (rules R211 to R214). -/

namespace Sys2Proof.Machine

/-- An accepted or rejected decode command of mode `m` (rules R212 to R214): rejected while a decode runs; otherwise
the latch, then `FrameTooLong(in_len)` for a length over 130, else the walk starts at SOF. -/
def startDecode (m : BitVec 1) (inLen : BitVec 8) (inBits : Cells) (b : Block) : Block :=
  if b.quiescent then
    if Config.maxBits < inLen.toNat then (b.latch m inLen inBits).raise (.frameTooLong inLen.toNat)
    else (b.latch m inLen inBits).goto Fsm.sof
  else b.reject

/-- NOP (rule R211): no command this host step. -/
def execNop (s : State) : Result := .next s

/-- DECODE (rule R212): the reduced mode. -/
def execDecode (inLen : BitVec 8) (inBits : Cells) (s : State) : Result :=
  .next (s.setBlock (startDecode 0#1 inLen inBits s.block))

/-- DECODE_FULL (rule R213): the full mode. -/
def execDecodeFull (inLen : BitVec 8) (inBits : Cells) (s : State) : Result :=
  .next (s.setBlock (startDecode 1#1 inLen inBits s.block))

/-- The reserved command code 11 (rule R214): rejected in any state. -/
def execReservedCmd (s : State) : Result := .next (s.setBlock s.block.reject)

end Sys2Proof.Machine
end

