-- ==== Sys2Proof/Machine/Normalizer.lean ====
section
/-! DEFINITION. The input normalizer (rules R120 to R131), a pure function on the host's side, and its three input
shapes. -/

namespace Sys2Proof.Machine

/-- A character of a base-2 text (rule R121, D4). -/
def isBinaryDigit (c : Char) : Bool := c = '0' || c = '1'

/-- An ASCII decimal digit (rule R121, D5). -/
def isDecimalDigit (c : Char) : Bool := decide (48 ≤ c.toNat) && decide (c.toNat ≤ 57)

/-- The value of an ASCII decimal digit. -/
def digitValue (c : Char) : Nat := c.toNat - 48

/-- `decimal_value(s)` (rule R124): base 10, leading zeros allowed. -/
def decimalValue (s : List Char) : Nat := s.foldl (fun acc c => 10 * acc + digitValue c) 0

/-- `text_bits(s)` (rule R121), `none` for `MalformedInput`: empty text is the empty sequence, a base-2 text keeps
its width (rule R125), any other decimal text is converted, and nothing else is accepted. -/
def textBits (s : List Char) : Option BitSeq :=
  if s = [] then some []
  else if s.all isBinaryDigit then some (s.map (fun c => decide (c = '1')))
  else if s.all isDecimalDigit then some (minbin (decimalValue s))
  else none

/-- A UTF-8 continuation octet in a range (RFC 3629). -/
def octetIn (lo hi : Nat) (b : Byte) : Bool := decide (lo ≤ b.toNat) && decide (b.toNat ≤ hi)

/-- The six low bits of a continuation octet. -/
def tailBits (b : Byte) : Nat := b.toNat % 64

/-- The two-octet characters of RFC 3629: C2..DF, then one tail. -/
def utf8Two (b0 b1 : Byte) : Option Char :=
  if octetIn 0xC2 0xDF b0 && octetIn 0x80 0xBF b1 then some (Char.ofNat (b0.toNat % 32 * 64 + tailBits b1)) else none

/-- The three-octet characters of RFC 3629: no overlong form (E0 with a second octet below A0) and no surrogate
(ED with a second octet above 9F). -/
def utf8Three (b0 b1 b2 : Byte) : Option Char :=
  if octetIn 0xE0 0xEF b0 && octetIn (if b0 = 0xE0#8 then 0xA0 else 0x80) (if b0 = 0xED#8 then 0x9F else 0xBF) b1
      && octetIn 0x80 0xBF b2 then
    some (Char.ofNat (b0.toNat % 16 * 4096 + tailBits b1 * 64 + tailBits b2))
  else none

/-- The four-octet characters of RFC 3629: no overlong form (F0 with a second octet below 90) and nothing past
U+10FFFF (F4 with a second octet above 8F). -/
def utf8Four (b0 b1 b2 b3 : Byte) : Option Char :=
  if octetIn 0xF0 0xF4 b0 && octetIn (if b0 = 0xF0#8 then 0x90 else 0x80) (if b0 = 0xF4#8 then 0x8F else 0xBF) b1
      && octetIn 0x80 0xBF b2 && octetIn 0x80 0xBF b3 then
    some (Char.ofNat (b0.toNat % 8 * 262144 + tailBits b1 * 4096 + tailBits b2 * 64 + tailBits b3))
  else none

/-- One character in front of the characters of the rest, where both are valid. -/
def consChar (c : Option Char) (rest : Option (List Char)) : Option (List Char) :=
  match c, rest with
  | some c, some cs => some (c :: cs)
  | _, _ => none

/-- `utf8_decode` where `utf8_valid` (rule R122, RFC 3629, G2), `none` for octets that are not valid UTF-8. -/
def utf8Decode : List Byte → Option (List Char)
  | [] => some []
  | b0 :: rest0 =>
    if b0.toNat < 0x80 then consChar (some (Char.ofNat b0.toNat)) (utf8Decode rest0)
    else
      match rest0 with
      | [] => none
      | b1 :: rest1 =>
        if b0.toNat < 0xE0 then consChar (utf8Two b0 b1) (utf8Decode rest1)
        else
          match rest1 with
          | [] => none
          | b2 :: rest2 =>
            if b0.toNat < 0xF0 then consChar (utf8Three b0 b1 b2) (utf8Decode rest2)
            else
              match rest2 with
              | [] => none
              | b3 :: rest3 => consChar (utf8Four b0 b1 b2 b3) (utf8Decode rest3)

/-- The length check (rule R126), after the shape's own check (rule R129). -/
def checkLength (bits : BitSeq) : NormResult :=
  if Config.maxBits < bits.length then .frameTooLong bits.length else .ok bits

/-- The shape's result, then the length check (rule R120). -/
def finish (r : Option BitSeq) : NormResult :=
  match r with
  | none => .malformedInput
  | some bits => checkLength bits

/-- The shape rule of a raw message (rules R121 to R123), `none` for `MalformedInput`. -/
def shapeBits : RawInput → Option BitSeq
  | .text s => textBits s
  | .bytes b => (utf8Decode b).bind textBits
  | .int v => if v < 0 then none else some (minbin v.toNat)

/-- `normalize` (rule R120). -/
def normalizeRaw (raw : RawInput) : NormResult := finish (shapeBits raw)

/-- `normalize` of a message under its shape tag; the reserved tag 11 is `MalformedInput` (rules R93, R127). -/
def normalizeTagged (tag : BitVec 2) (raw : RawOperands) : NormResult :=
  if tag = 0b00#2 then normalizeRaw (.text raw.text)
  else if tag = 0b01#2 then normalizeRaw (.bytes raw.bytes)
  else if tag = 0b10#2 then normalizeRaw (.int raw.int)
  else .malformedInput

/-- NORM_TEXT (rule R121). -/
def execNormText (str : List Char) (s : State) : Result := .next (s.setNorm (normalizeRaw (.text str)))

/-- NORM_BYTES (rule R122). -/
def execNormBytes (b : List Byte) (s : State) : Result := .next (s.setNorm (normalizeRaw (.bytes b)))

/-- NORM_INT (rule R123). -/
def execNormInt (v : Int) (s : State) : Result := .next (s.setNorm (normalizeRaw (.int v)))

end Sys2Proof.Machine
end

