-- ==== Sys2Proof/Machine/Dispatch.lean ====
section
/-! DEFINITION. One arm for each row of spec/opcode_table.json. -/

namespace Sys2Proof.Machine

def exec (i : Instr) (s : State) : Host.Outcome State Fault Refusal :=
  match i with
  | .nop => Sys2Proof.Machine.execNop s
  | .decode inLen inBits => Sys2Proof.Machine.execDecode inLen inBits s
  | .decodeFull inLen inBits => Sys2Proof.Machine.execDecodeFull inLen inBits s
  | .reservedCmd => Sys2Proof.Machine.execReservedCmd s
  | .normText str => Sys2Proof.Machine.execNormText str s
  | .normBytes b => Sys2Proof.Machine.execNormBytes b s
  | .normInt v => Sys2Proof.Machine.execNormInt v s
  | .take n => Sys2Proof.Machine.execTake n s
  | .takeUint n => Sys2Proof.Machine.execTakeUint n s
  | .sIdle => Sys2Proof.Machine.execSIdle s
  | .sSof => Sys2Proof.Machine.execSSof s
  | .sArbId => Sys2Proof.Machine.execSArbId s
  | .sClassify => Sys2Proof.Machine.execSClassify s
  | .sRtr => Sys2Proof.Machine.execSRtr s
  | .sIde => Sys2Proof.Machine.execSIde s
  | .sSrr => Sys2Proof.Machine.execSSrr s
  | .sExtId => Sys2Proof.Machine.execSExtId s
  | .sRtr2 => Sys2Proof.Machine.execSRtr2 s
  | .sReserved => Sys2Proof.Machine.execSReserved s
  | .sDlc => Sys2Proof.Machine.execSDlc s
  | .sData => Sys2Proof.Machine.execSData s
  | .sCrc => Sys2Proof.Machine.execSCrc s
  | .sCrcDel => Sys2Proof.Machine.execSCrcDel s
  | .sAck => Sys2Proof.Machine.execSAck s
  | .sAckDel => Sys2Proof.Machine.execSAckDel s
  | .sEof => Sys2Proof.Machine.execSEof s
  | .sIfs => Sys2Proof.Machine.execSIfs s
  | .sDone => Sys2Proof.Machine.execSDone s
  | .sError => Sys2Proof.Machine.execSError s

end Sys2Proof.Machine
end

