-- ==== Sys2Proof/WellFormed.lean ====
section
/-! DEFINITION. Which terms of `Instr` have a word in the spec's encoding. All operands but the cursor's counts are
as wide as their ports by their types; a count must fit bits 6:0 of the cursor word (rule R91). -/

namespace Sys2Proof

/-- The instruction has an encoding: a cursor count is at most 127 (rule R91). -/
def Instr.wellFormed : Instr → Bool
  | .take n => decide (n ≤ 127)
  | .takeUint n => decide (n ≤ 127)
  | .nop | .decode _ _ | .decodeFull _ _ | .reservedCmd => true
  | .normText _ | .normBytes _ | .normInt _ => true
  | .sIdle | .sSof | .sArbId | .sClassify | .sRtr | .sIde | .sSrr | .sExtId | .sRtr2 | .sReserved => true
  | .sDlc | .sData | .sCrc | .sCrcDel | .sAck | .sAckDel | .sEof | .sIfs | .sDone | .sError => true

end Sys2Proof
end

