-- ==== Sys2Proof/Decode.lean ====
section
/-! DEFINITION. The decoder of the four formats (rules R90 to R93, R98, R101), total on every word and rejecting the
reserved ones by name, and after it the encoder and the rows' mask and match as the opcode table gives them. -/

namespace Sys2Proof

/-- Why a word is no row of the table (rules R98, R101). -/
inductive Reject where
  /-- input shape tag 11 (rule R93): it names no input; the host side gets `MalformedInput` (rule R127). -/
  | reservedShape
  /-- a `STATE` code from 20 to 31 (rules R90, R180). -/
  | reservedState (code : BitVec 5)
  deriving DecidableEq, Repr

/-- A word of format host_cmd (rule R92); the operands are the ports of the same host step. -/
def decodeHostCmd (cmd : BitVec 2) (inLen : BitVec 8) (inBits : Cells) : Instr :=
  if cmd = 0b00#2 then .nop
  else if cmd = 0b01#2 then .decode inLen inBits
  else if cmd = 0b10#2 then .decodeFull inLen inBits
  else .reservedCmd

/-- A word of format input_shape (rule R93); the tag names which operand is read. -/
def decodeInputShape (tag : BitVec 2) (raw : RawOperands) : Except Reject Instr :=
  if tag = 0b00#2 then .ok (.normText raw.text)
  else if tag = 0b01#2 then .ok (.normBytes raw.bytes)
  else if tag = 0b10#2 then .ok (.normInt raw.int)
  else .error .reservedShape

/-- A word of format cursor_op (rule R91): bit 7 is the kind, bits 6:0 the count. -/
def decodeCursorOp (w : BitVec 8) : Instr :=
  if w.getLsbD 7 then .takeUint (w.extractLsb' 0 7).toNat else .take (w.extractLsb' 0 7).toNat

/-- A word of format fsm_state: the code of `STATE` (rule R90). -/
def decodeFsmState (code : BitVec 5) : Except Reject Instr :=
  match code.toNat with
  | 0 => .ok .sIdle
  | 1 => .ok .sSof
  | 2 => .ok .sArbId
  | 3 => .ok .sClassify
  | 4 => .ok .sRtr
  | 5 => .ok .sIde
  | 6 => .ok .sSrr
  | 7 => .ok .sExtId
  | 8 => .ok .sRtr2
  | 9 => .ok .sReserved
  | 10 => .ok .sDlc
  | 11 => .ok .sData
  | 12 => .ok .sCrc
  | 13 => .ok .sCrcDel
  | 14 => .ok .sAck
  | 15 => .ok .sAckDel
  | 16 => .ok .sEof
  | 17 => .ok .sIfs
  | 18 => .ok .sDone
  | 19 => .ok .sError
  | _ => .error (.reservedState code)

/-- The decoder (rule R101): within the word's own format. -/
def decode : CodeWord → Except Reject Instr
  | .hostCmd cmd inLen inBits => .ok (decodeHostCmd cmd inLen inBits)
  | .inputShape tag raw => decodeInputShape tag raw
  | .cursorOp w => .ok (decodeCursorOp w)
  | .fsmState code => decodeFsmState code

/-- A raw message none of whose operands is read. -/
def RawOperands.empty : RawOperands := { text := [], bytes := [], int := 0 }

/-- The word of a well-formed instruction, from the same tables (rules R90 to R93). -/
def encode : Instr → CodeWord
  | .nop => .hostCmd 0b00#2 0#8 0#130
  | .decode inLen inBits => .hostCmd 0b01#2 inLen inBits
  | .decodeFull inLen inBits => .hostCmd 0b10#2 inLen inBits
  | .reservedCmd => .hostCmd 0b11#2 0#8 0#130
  | .normText s => .inputShape 0b00#2 { RawOperands.empty with text := s }
  | .normBytes b => .inputShape 0b01#2 { RawOperands.empty with bytes := b }
  | .normInt v => .inputShape 0b10#2 { RawOperands.empty with int := v }
  | .take n => .cursorOp (0#1 ++ BitVec.ofNat 7 n)
  | .takeUint n => .cursorOp (1#1 ++ BitVec.ofNat 7 n)
  | .sIdle => .fsmState 0#5
  | .sSof => .fsmState 1#5
  | .sArbId => .fsmState 2#5
  | .sClassify => .fsmState 3#5
  | .sRtr => .fsmState 4#5
  | .sIde => .fsmState 5#5
  | .sSrr => .fsmState 6#5
  | .sExtId => .fsmState 7#5
  | .sRtr2 => .fsmState 8#5
  | .sReserved => .fsmState 9#5
  | .sDlc => .fsmState 10#5
  | .sData => .fsmState 11#5
  | .sCrc => .fsmState 12#5
  | .sCrcDel => .fsmState 13#5
  | .sAck => .fsmState 14#5
  | .sAckDel => .fsmState 15#5
  | .sEof => .fsmState 16#5
  | .sIfs => .fsmState 17#5
  | .sDone => .fsmState 18#5
  | .sError => .fsmState 19#5

/-- The format a word belongs to. -/
def CodeWord.format : CodeWord → Format
  | .hostCmd _ _ _ => .hostCmd
  | .inputShape _ _ => .inputShape
  | .cursorOp _ => .cursorOp
  | .fsmState _ => .fsmState

/-- The word's own bits, as the opcode table numbers them. -/
def CodeWord.bits : CodeWord → Nat
  | .hostCmd cmd _ _ => cmd.toNat
  | .inputShape tag _ => tag.toNat
  | .cursorOp w => w.toNat
  | .fsmState code => code.toNat

/-- A row of spec/opcode_table.json: its format, mask and match. -/
structure TableRow where
  format  : Format
  mask    : Nat
  pattern : Nat
  deriving DecidableEq, Repr

/-- The table's row of an instruction, mask and match as spec/opcode_table.json has them. -/
def tableRow : Instr → TableRow
  | .nop => ⟨.hostCmd, 0x3, 0x0⟩
  | .decode _ _ => ⟨.hostCmd, 0x3, 0x1⟩
  | .decodeFull _ _ => ⟨.hostCmd, 0x3, 0x2⟩
  | .reservedCmd => ⟨.hostCmd, 0x3, 0x3⟩
  | .normText _ => ⟨.inputShape, 0x3, 0x0⟩
  | .normBytes _ => ⟨.inputShape, 0x3, 0x1⟩
  | .normInt _ => ⟨.inputShape, 0x3, 0x2⟩
  | .take _ => ⟨.cursorOp, 0x80, 0x0⟩
  | .takeUint _ => ⟨.cursorOp, 0x80, 0x80⟩
  | .sIdle => ⟨.fsmState, 0x1f, 0x0⟩
  | .sSof => ⟨.fsmState, 0x1f, 0x1⟩
  | .sArbId => ⟨.fsmState, 0x1f, 0x2⟩
  | .sClassify => ⟨.fsmState, 0x1f, 0x3⟩
  | .sRtr => ⟨.fsmState, 0x1f, 0x4⟩
  | .sIde => ⟨.fsmState, 0x1f, 0x5⟩
  | .sSrr => ⟨.fsmState, 0x1f, 0x6⟩
  | .sExtId => ⟨.fsmState, 0x1f, 0x7⟩
  | .sRtr2 => ⟨.fsmState, 0x1f, 0x8⟩
  | .sReserved => ⟨.fsmState, 0x1f, 0x9⟩
  | .sDlc => ⟨.fsmState, 0x1f, 0xa⟩
  | .sData => ⟨.fsmState, 0x1f, 0xb⟩
  | .sCrc => ⟨.fsmState, 0x1f, 0xc⟩
  | .sCrcDel => ⟨.fsmState, 0x1f, 0xd⟩
  | .sAck => ⟨.fsmState, 0x1f, 0xe⟩
  | .sAckDel => ⟨.fsmState, 0x1f, 0xf⟩
  | .sEof => ⟨.fsmState, 0x1f, 0x10⟩
  | .sIfs => ⟨.fsmState, 0x1f, 0x11⟩
  | .sDone => ⟨.fsmState, 0x1f, 0x12⟩
  | .sError => ⟨.fsmState, 0x1f, 0x13⟩

/-- Which format a bare number of the opcode table is read in. The table's words do not say their format and overlap
between formats (rule R101), so one reading has to be fixed for a number that comes alone (notes/assumptions/7.md):
a row the table gives more than 8 bits is a state row (only those have such fields); fewer than 5 bits are a command
and 5 to 7 bits a state code; of 8 bits, bit 7 set is a cursor word, 0 to 3 a command, 4 to 19 a state code, and any
other number a cursor word. Operands beside the word are zeros. -/
def tableWord (nbits w : Nat) : CodeWord :=
  let command := CodeWord.hostCmd (BitVec.ofNat 2 w) 0#8 0#130
  let state := CodeWord.fsmState (BitVec.ofNat 5 w)
  let cursor := CodeWord.cursorOp (BitVec.ofNat 8 w)
  if nbits > 8 then state
  else if nbits < 5 then command
  else if nbits < 8 then state
  else if w < 4 then command
  else if w < 20 then state
  else cursor

/-- The instruction the decoder reads from a bare word of the opcode table, in the format `tableWord` reads it in. -/
def decodeTableWord (nbits w : Nat) : Option Instr :=
  match decode (tableWord nbits w) with
  | .ok i => some i
  | .error _ => none

end Sys2Proof
end

