-- ==== Sys2Proof/Machine/Fetch.lean ====
section
/-! DEFINITION. What a step runs: which agent moves (rule R6), the word it brings to the decoder (rules R101, R181,
R210), the host's side of the library calls (rule R218), and reset (rule R260). The step itself is in Step.lean. -/

namespace Sys2Proof.Machine

/-- What the moving agent brings: a word to decode and run in the state as the move leaves it, a move that runs no
instruction, or a refusal. -/
inductive Fetched where
  | run (w : CodeWord) (s : State)
  | done (s : State)
  | refused (r : Refusal)

/-- The ports of a host step without a command (rule R211). -/
def nopWord : CodeWord := .hostCmd 0b00#2 0#8 0#130

/-- The command word a library call issues for its bits (rules R131, R218). -/
def commandWord (full : Bool) (bits : BitSeq) : CodeWord :=
  .hostCmd (if full then 0b10#2 else 0b01#2) (toPortLen bits) (toPort bits)

/-- The result a finished decode has for the call, read from the ports (rule R218). -/
def okResult (full : Bool) (b : Block) : Option CallResult :=
  match sensorOf b.resSensor with
  | none => none
  | some t => some (if full then .full t (frameOf b.resFrame b.resData) else .reduced t b.resData)

/-- The call returns `r`, and the host goes on with the rest of its program. -/
def State.finishCall (s : State) (r : CallResult) (rest : List HostOp) : State :=
  { s with returned := some r, program := rest }

/-- The rest of the host's program. -/
def State.setProgram (s : State) (p : List HostOp) : State := { s with program := p }

/-- The second part of a library call (rule R218): return the normalizer's error (rule R128), or wait until the block
is quiescent and issue the command. A host that waits issues NOP. -/
def issueMove (full : Bool) (rest : List HostOp) (s : State) : Fetched :=
  match s.norm with
  | none => .done (s.setProgram rest)
  | some .malformedInput => .done (s.finishCall (.error .malformedInput) rest)
  | some (.frameTooLong n) => .done (s.finishCall (.error (.frameTooLong n)) rest)
  | some (.ok bits) =>
    if s.block.quiescent then .run (commandWord full bits) (s.setProgram (.collect full :: rest))
    else .run nopWord s

/-- The last part of a library call (rule R218): wait until DONE or ERR, then return what the ports hold. -/
def collectMove (full : Bool) (rest : List HostOp) (s : State) : Fetched :=
  if s.block.doneFlag = 1#1 then
    match okResult full s.block with
    | some r => .done (s.finishCall r rest)
    | none => .refused .doneWithoutSensor
  else if s.block.errFlag = 1#1 then
    match errorOf s.block.errKind s.block.errA s.block.errB with
    | some e => .done (s.finishCall (.error e) rest)
    | none => .refused .errorWithoutKind
  else .run nopWord s

/-- The host's move (rule R210): its program's next operation, NOP when it has none. -/
def hostMove (s : State) : Fetched :=
  match s.program with
  | [] => .run nopWord s
  | .drive cmd inLen inBits :: rest => .run (.hostCmd cmd inLen inBits) (s.setProgram rest)
  | .normalize tag raw :: rest => .run (.inputShape tag raw) (s.setProgram rest)
  | .call full tag raw :: rest => .run (.inputShape tag raw) (s.setProgram (.issue full :: rest))
  | .issue full :: rest => issueMove full rest s
  | .collect full :: rest => collectMove full rest s

/-- The block's move (rule R181): the rule of the state `STATE` names. -/
def blockMove (s : State) : Fetched := .run (.fsmState s.block.state) s

/-- Reset (rule R260): every register of the block to its reset value; `SENSOR_MAP` is kept, and so is the host. -/
def resetMove (s : State) : Fetched := .done { s with block := Block.reset }

/-- The rest of the schedule. -/
def State.setTurns (s : State) (t : List Turn) : State := { s with turns := t }

/-- Who moves (rule R6): as the schedule says; past its end, the block while it has a micro-step (weak fairness,
D27), and otherwise the host (notes/assumptions/6.md). -/
def move (s : State) : Fetched :=
  match s.turns with
  | [] => if s.block.enabled then blockMove s else hostMove s
  | .host :: rest => hostMove (s.setTurns rest)
  | .block :: rest => blockMove (s.setTurns rest)
  | .reset :: rest => resetMove (s.setTurns rest)
  | .cursor w :: rest => .run (.cursorOp w) (s.setTurns rest)

/-- What a step runs; a block that holds a reserved value has no step (rule R180, I11 to I14). -/
def fetch (s : State) : Fetched :=
  match s.block.reservedValue with
  | some r => .refused r
  | none => move s

/-- A word that is no row: the reserved shape tag gives the host `MalformedInput` (rules R93, R127), a reserved
`STATE` is refused (rule R180). -/
def onReject (r : Reject) (s : State) : Result :=
  match r with
  | .reservedShape => .next (s.setNorm .malformedInput)
  | .reservedState _ => .refused .reservedState

/-- A state in which the word is the next thing a step runs: a command or a message heads the host's program and
the host moves, a cursor word is the next turn, a `STATE` code stands in `STATE` and the block moves. -/
def State.place (s : State) (w : CodeWord) : State :=
  match w with
  | .hostCmd cmd inLen inBits =>
    { s with program := .drive cmd inLen inBits :: s.program, turns := .host :: s.turns }
  | .inputShape tag raw => { s with program := .normalize tag raw :: s.program, turns := .host :: s.turns }
  | .cursorOp word => { s with turns := .cursor word :: s.turns }
  | .fsmState code => { s with block := s.block.goto code, turns := .block :: s.turns }

end Sys2Proof.Machine
end

