-- ==== Sys2Proof/Machine/Step.lean ====
section
/-! DEFINITION. One step of the machine: the moving agent's word, decoded and run. -/

namespace Sys2Proof.Machine

def step (s : State) : Host.Outcome State Fault Refusal :=
  match fetch s with
  | .run w s' =>
    match decode w with
    | .ok i => exec i s'
    | .error r => onReject r s'
  | .done s' => .next s'
  | .refused r => .refused r

/-- The state with a bare word of the opcode table as the next thing a step runs, in the format `tableWord` reads it
in (notes/assumptions/7.md). -/
def State.withFetchWord (s : State) (nbits w : Nat) : State := s.place (tableWord nbits w)

end Sys2Proof.Machine
end

