-- ==== Sys2Proof/Machine/Walk.lean ====
section
/-! DEFINITION. The walk as one function over a bit sequence (rule R182) and the library calls as functions of the
raw message and the table (rule R219). The machine does not use these: they are what its micro-steps compute. -/

namespace Sys2Proof.Machine

/-- What the walk returns (rule R182). -/
inductive WalkResult where
  | ok (t : SensorType) (f : Frame)
  | error (e : DecodeError)
  deriving DecidableEq, Repr

/-- `take(n)` of rule R182 at `cur`, and the rest of the walk on its value and the cursor after it. -/
def takeAt (bits : BitSeq) (cur n : Nat) (k : Nat → Nat → WalkResult) : WalkResult :=
  if bits.length - cur < n then .error (.insufficientBits n (bits.length - cur))
  else k (uint ((bits.drop cur).take n)) (cur + n)

/-- The walk from the reserved bit on (rule R182), with the fields read before it in `f`. -/
def walkTail (bits : BitSeq) (t : SensorType) (f : Frame) (cur : Nat) : WalkResult :=
  takeAt bits cur 1 fun rsv cur =>
  takeAt bits cur 4 fun dlc cur =>
  takeAt bits cur (8 * dlc) fun data cur =>
  takeAt bits cur 15 fun crc cur =>
  takeAt bits cur 1 fun crcd cur =>
  if crcd ≠ 1 then .error (.invalidFixedBit .crcDelimiter crcd)
  else
    takeAt bits cur 1 fun ack cur =>
    takeAt bits cur 1 fun ackd cur =>
    if ackd ≠ 1 then .error (.invalidFixedBit .ackDelimiter ackd)
    else
      takeAt bits cur 7 fun eof cur =>
      takeAt bits cur 3 fun ifs _ =>
      .ok t { f with
        rsv := BitVec.ofNat 1 rsv, dlc := BitVec.ofNat 4 dlc, data := BitVec.ofNat 120 data
        crc := BitVec.ofNat 15 crc, crcd := BitVec.ofNat 1 crcd, ack := BitVec.ofNat 1 ack
        ackd := BitVec.ofNat 1 ackd, eof := BitVec.ofNat 7 eof, ifs := BitVec.ofNat 3 ifs }

/-- A frame of which nothing has been read. -/
def Frame.blank : Frame :=
  { sof := 0#1, arb := 0#11, rtr := 0#1, ide := 0#1, srr := none, ext := none, rsv := 0#1, dlc := 0#4, data := 0#120
    crc := 0#15, crcd := 0#1, ack := 0#1, ackd := 0#1, eof := 0#7, ifs := 0#3 }

/-- `walk(bits, map)` (rule R182). -/
def walk (bits : BitSeq) (map : SensorMap) : WalkResult :=
  takeAt bits 0 1 fun sof cur =>
  if sof ≠ 0 then .error (.invalidFixedBit .startOfFrame sof)
  else
    takeAt bits cur 11 fun id cur =>
    match lookupSensor map (BitVec.ofNat 11 id) with
    | none => .error (.unknownArbitrationId id)
    | some t =>
      takeAt bits cur 1 fun rtr cur =>
      takeAt bits cur 1 fun ide cur =>
      let f := { Frame.blank with
        sof := BitVec.ofNat 1 sof, arb := BitVec.ofNat 11 id, rtr := BitVec.ofNat 1 rtr, ide := BitVec.ofNat 1 ide }
      if ide = 1 then
        takeAt bits cur 18 fun ext cur =>
        takeAt bits cur 1 fun rtr2 cur =>
        walkTail bits t
          { f with srr := some (BitVec.ofNat 1 rtr), ext := some (BitVec.ofNat 18 ext), rtr := BitVec.ofNat 1 rtr2 } cur
      else walkTail bits t f cur

/-- The call's view of a walk (rules R218, R219): in reduced mode the sensor type and the data alone. -/
def WalkResult.view (full : Bool) : WalkResult → CallResult
  | .ok t f => if full then .full t f else .reduced t f.data
  | .error e => .error e

/-- `decode(raw)` and `decode_full(raw)` as functions (rule R219): the normalizer, then the walk. -/
def libraryResult (full : Bool) (tag : BitVec 2) (raw : RawOperands) (map : SensorMap) : CallResult :=
  match normalizeTagged tag raw with
  | .malformedInput => .error .malformedInput
  | .frameTooLong n => .error (.frameTooLong n)
  | .ok bits => (walk bits map).view full

/-- The Frame record a block's registers hold (rules R27, R28). -/
def Block.frame (b : Block) : Frame :=
  { sof := b.fSof, arb := b.fArb, rtr := b.fRtr, ide := b.fIde
    srr := if b.fSrrV = 1#1 then some b.fSrr else none
    ext := if b.fExtV = 1#1 then some b.fExt else none
    rsv := b.fRsv, dlc := b.fDlc, data := b.fData, crc := b.fCrc, crcd := b.fCrcd, ack := b.fAck, ackd := b.fAckd
    eof := b.fEof, ifs := b.fIfs }

end Sys2Proof.Machine
end

