-- ==== Sys2Proof/Safety.lean ====
section
/-! DEFINITION. What a legal state is: the invariants the spec names (rules R22 to R31, R39, R180, R183), stated for
every `STATE` code so that a micro-step keeps them, and runs of a number of steps. -/

namespace Sys2Proof.Machine

/-- `0 <= POS <= LEN <= 130` (rules R23, R24, R39). -/
abbrev Block.cursorOk (b : Block) : Prop := b.pos.toNat ≤ b.len.toNat ∧ b.len.toNat ≤ Config.maxBits

/-- `v` is the value of the next `n` bits of the buffer, the first the most significant (rules R10, R63). -/
abbrev Block.FieldAt (b : Block) (n v : Nat) : Prop :=
  v < 2 ^ n ∧ ∀ k, k < n → v.testBit (n - 1 - k) = b.buf.getLsbD (b.pos.toNat + k)

/-- The error entry of a read of `n` bits that are not there, as registers (rules R95, R232, R236). -/
def Block.shortOf (b : Block) (n : Nat) : Block :=
  { b with
    errKind := 2#3, errA := BitVec.ofNat 16 n, errB := BitVec.ofNat 8 (b.len.toNat - b.pos.toNat), state := 19#5 }

/-- The next bit of the buffer (rule R24), as a 1-bit register holds it. -/
def Block.nextBit (b : Block) : BitVec 1 := BitVec.ofBool (b.buf.getLsbD b.pos.toNat)

/-- What the field-reading micro-step of `STATE` code `code` and `n` bits answers, whole (42_field_walk.md): the code is
the instruction's; with `n` bits left, the next state whose block is `after` of the field's value, and with fewer,
`InsufficientBits` with nothing read; everything but the block is as before in both. -/
abbrev ReadsField (code : BitVec 5) (i : Instr) (s : State) (n : Nat) (after : Nat → Block) : Prop :=
  decode (.fsmState code) = .ok i ∧
  (n ≤ s.block.len.toNat - s.block.pos.toNat →
    ∃ v, s.block.FieldAt n v ∧ exec i s = .next { s with block := after v }) ∧
  (s.block.len.toNat - s.block.pos.toNat < n → exec i s = .next { s with block := s.block.shortOf n })

/-- The octets of a text in the library's UTF-8 encoding. -/
def utf8Octets (cs : List Char) : List Byte := (cs.flatMap String.utf8EncodeChar).map (fun u => BitVec.ofNat 8 u.toNat)

/-- The length of a frame whose IDE and DLC are as read (rule R81). -/
def frameLength (ide : BitVec 1) (dlc : BitVec 4) : Nat := (if ide = 1#1 then 66 else 47) + 8 * dlc.toNat

/-- The bits an extended frame has more than a standard one: the extension and the second RTR (rule R81). -/
def extraBits (b : Block) : Nat := if b.fIde = 1#1 then 19 else 0

/-- The index of the bit each state reads next, by rule R80's tables (SRR and EXT_ID only run in an extended frame). -/
def expectedPos (b : Block) : Nat :=
  match b.state.toNat with
  | 1 => 0
  | 2 => 1
  | 3 => 12
  | 4 => 12
  | 5 => 13
  | 6 => 14
  | 7 => 14
  | 8 => 32
  | 9 => 14 + extraBits b
  | 10 => 15 + extraBits b
  | 11 => 19 + extraBits b
  | 12 => 19 + extraBits b + dataWidth b
  | 13 => 34 + extraBits b + dataWidth b
  | 14 => 35 + extraBits b + dataWidth b
  | 15 => 36 + extraBits b + dataWidth b
  | 16 => 37 + extraBits b + dataWidth b
  | 17 => 44 + extraBits b + dataWidth b
  | _ => 47 + extraBits b + dataWidth b

/-- The walk is under way or complete: `STATE` is SOF to DONE. -/
abbrev Block.walking (b : Block) : Prop := 1 ≤ b.state.toNat ∧ b.state.toNat ≤ 18

/-- The presence flags as the walk has set them before the state that now runs (rules R28, R165 to R167). -/
abbrev Block.presenceOk (b : Block) : Prop :=
  (b.state.toNat ≤ 5 → b.fSrrV = 0#1 ∧ b.fExtV = 0#1) ∧
  (b.state.toNat = 6 → b.fIde = 1#1 ∧ b.fSrrV = 0#1 ∧ b.fExtV = 0#1) ∧
  (b.state.toNat = 7 → b.fIde = 1#1 ∧ b.fSrrV = 1#1 ∧ b.fExtV = 0#1) ∧
  (b.state.toNat = 8 → b.fIde = 1#1 ∧ b.fSrrV = 1#1 ∧ b.fExtV = 1#1) ∧
  (9 ≤ b.state.toNat ∧ b.state.toNat ≤ 18 → b.fSrrV = b.fIde ∧ b.fExtV = b.fIde)

/-- An absent field is 0 (rule R28). -/
abbrev Block.absentZero (b : Block) : Prop := (b.fSrrV = 0#1 → b.fSrr = 0#1) ∧ (b.fExtV = 0#1 → b.fExt = 0#18)

/-- The error registers name one of the block's four errors exactly in ERROR, and are 0 elsewhere (rules R31, R39,
R94, R95). -/
abbrev Block.errorOk (b : Block) : Prop :=
  (b.state = Fsm.error → 1 ≤ b.errKind.toNat ∧ b.errKind.toNat ≤ 4 ∧
    (b.errKind = 3#3 → 1 ≤ b.errA.toNat ∧ b.errA.toNat ≤ 3)) ∧
  (b.state ≠ Fsm.error → b.errKind = 0#3 ∧ b.errA = 0#16 ∧ b.errB = 0#8)

/-- The fixed bits and the classification as the walk has checked them (rules R30, R161, R163, R173, R175), and
the data below its width (rule R171). -/
abbrev Block.checkedOk (b : Block) : Prop :=
  (2 ≤ b.state.toNat ∧ b.state.toNat ≤ 18 → b.fSof = 0#1) ∧
  (4 ≤ b.state.toNat ∧ b.state.toNat ≤ 18 → 1 ≤ b.sensor.toNat) ∧
  (12 ≤ b.state.toNat ∧ b.state.toNat ≤ 18 → b.fData.toNat < 2 ^ dataWidth b) ∧
  (14 ≤ b.state.toNat ∧ b.state.toNat ≤ 18 → b.fCrcd = 1#1) ∧
  (16 ≤ b.state.toNat ∧ b.state.toNat ≤ 18 → b.fAckd = 1#1)

/-- A legal block: the facts of rule R39 and those of each state that they follow from. -/
structure Block.Inv (b : Block) : Prop where
  stateOk    : b.state.toNat ≤ 19
  cursor     : b.cursorOk
  sensorOk   : b.sensor.toNat ≤ 5
  error      : b.errorOk
  absent     : b.absentZero
  presence   : b.presenceOk
  checked    : b.checkedOk
  position   : b.walking → b.pos.toNat = expectedPos b

/-- No turn of the schedule runs the cursor by itself (notes/assumptions/4.md: only the model can do that; by the
spec's ports every cursor operation is inside a micro-step). -/
abbrev State.portsOnly (s : State) : Prop := ∀ w, Turn.cursor w ∉ s.turns

/-- A legal machine. -/
structure State.Inv (s : State) : Prop where
  block : s.block.Inv
  ports : s.portsOnly

/-- `k` steps, to the first stop. -/
def runSteps : Nat → State → Result
  | 0, s => .next s
  | k + 1, s =>
    match step s with
    | .next t => runSteps k t
    | .fault r => .fault r
    | .refused r => .refused r

end Sys2Proof.Machine
end

