-- ==== Sys2Proof/Certificates/Slice0/Obligations.lean ====
section
/-! DEFINITION. The statements for the provers, one a definition; OBLIGATIONS.json lists them. Registers are written as
the numbers of rules R90, R94, R95 and R96. Each says for every state what its docstring says. -/

open Sys2Proof Sys2Proof.Machine

/-! ## Encodings (30_encoding.md) -/

/-- Decoding the word of a well-formed instruction gives it back, with every operand at every value its port holds. -/
def Obligations.DecodeEncodeRoundTrip : Prop :=
  ∀ i : Instr, i.wellFormed = true → Sys2Proof.decode (encode i) = .ok i

/-- The other way: a word that decodes is the word of what it decodes to, in its own format, and that is
well-formed. -/
def Obligations.DecodedWordReencodes : Prop :=
  ∀ (w : CodeWord) (i : Instr), Sys2Proof.decode w = .ok i →
    i.wellFormed = true ∧ (encode i).format = w.format ∧ (encode i).bits = w.bits

/-- Within one format, no word matches the rows of two different operations, and the decoder reads an operation from a
word exactly when the word has the row's format and matches its mask and pattern (rule R101). Two instructions are the
same operation when they have the same constructor (`ctorIdx`), whatever their operands. -/
def Obligations.NoWordMatchesTwoRows : Prop :=
  (∀ (i j : Instr) (w : Nat), (tableRow i).format = (tableRow j).format →
    w &&& (tableRow i).mask = (tableRow i).pattern → w &&& (tableRow j).mask = (tableRow j).pattern →
    i.ctorIdx = j.ctorIdx) ∧
  ∀ (w : CodeWord) (i : Instr),
    (∃ j, Sys2Proof.decode w = .ok j ∧ j.ctorIdx = i.ctorIdx) ↔
      w.format = (tableRow i).format ∧ w.bits &&& (tableRow i).mask = (tableRow i).pattern

/-- Words written out from rules R90 to R93 decode to the rows they stand for (a sanity statement). -/
def Obligations.WrittenOutWordsDecode : Prop :=
  Sys2Proof.decode (.hostCmd 0b00#2 7#8 0#130) = .ok .nop ∧
  Sys2Proof.decode (.hostCmd 0b10#2 55#8 1#130) = .ok (.decodeFull 55#8 1#130) ∧
  Sys2Proof.decode (.inputShape 0b10#2 { text := ['1'], bytes := [], int := -3 }) = .ok (.normInt (-3)) ∧
  Sys2Proof.decode (.cursorOp 0b00001011#8) = .ok (.take 11) ∧
  Sys2Proof.decode (.cursorOp 0b11111000#8) = .ok (.takeUint 120) ∧
  Sys2Proof.decode (.fsmState 0b01011#5) = .ok .sData

/-- Which words decode (rules R90 to R93, R98, R180): every command word, the reserved code 11 to its own row
RESERVED_CMD among them, and every cursor word; a message exactly under a tag other than 11; a `STATE` code exactly
below 20. The others are refused, each by its name. -/
def Obligations.OnlyReservedWordsAreRejected : Prop :=
  (∀ cmd l c, ∃ i, Sys2Proof.decode (.hostCmd cmd l c) = .ok i) ∧
  (∀ l c, Sys2Proof.decode (.hostCmd 0b11#2 l c) = .ok .reservedCmd) ∧
  (∀ w, ∃ i, Sys2Proof.decode (.cursorOp w) = .ok i) ∧
  (∀ tag raw, (∃ i, Sys2Proof.decode (.inputShape tag raw) = .ok i) ↔ tag ≠ 0b11#2) ∧
  (∀ raw, Sys2Proof.decode (.inputShape 0b11#2 raw) = .error .reservedShape) ∧
  (∀ code, (∃ i, Sys2Proof.decode (.fsmState code) = .ok i) ↔ code.toNat < 20) ∧
  (∀ code, 20 ≤ code.toNat → Sys2Proof.decode (.fsmState code) = .error (.reservedState code))

/-! ## Reset and the step (10_state.md, 70_reset_and_hazards.md, 42_field_walk.md) -/

/-- Reset leaves every register of the block at 0 and `STATE` in IDLE, `STATUS` at 0, and keeps `SENSOR_MAP`
(rules R38, R260); it does so in the state the machine starts in and in every state the host asserts it in. That a
reset leaves the host's program and results alone is the model's choice (notes/assumptions/5.md), and so is that no step,
reset included, is taken while a register holds a reserved value (notes/assumptions/10.md). -/
def Obligations.ResetSetsEveryRegister : Prop :=
  let zero : Block :=
    { state := 0#5, mode := 0#1, buf := 0#130, len := 0#8, pos := 0#8, fSof := 0#1, fArb := 0#11, fRtr := 0#1
      fIde := 0#1, fSrr := 0#1, fSrrV := 0#1, fExt := 0#18, fExtV := 0#1, fRsv := 0#1, fDlc := 0#4, fData := 0#120
      fCrc := 0#15, fCrcd := 0#1, fAck := 0#1, fAckd := 0#1, fEof := 0#7, fIfs := 0#3, sensor := 0#3
      errKind := 0#3, errA := 0#16, errB := 0#8, ovr := 0#1 }
  State.reset.block = zero ∧ zero.status = 0#16 ∧ zero.enabled = false ∧
  ∀ (s : State) (rest : List Turn), s.turns = .reset :: rest → s.block.reservedValue = none →
    step s = .next { s with turns := rest, block := zero }

/-- The state after reset is legal. -/
def Obligations.ResetStateIsLegal : Prop := State.reset.Inv

/-- A step runs the decoded instruction: whoever moves brings a word, and when the word decodes to `i`, the step is
`exec i` in the state with that turn (and that operation of the host's program) taken off. The block's word is `STATE`
(rule R181), a host step's is its ports (rule R210), and a host with no operation left issues NOP; with no turn
prescribed the block moves while it is enabled, and otherwise the host (notes/assumptions/6.md). -/
def Obligations.StepRunsDecodedInstruction : Prop :=
  ∀ (s : State) (i : Instr) (ts : List Turn) (ps : List HostOp), s.block.reservedValue = none →
    (s.turns = .block :: ts → Sys2Proof.decode (.fsmState s.block.state) = .ok i →
      step s = exec i { s with turns := ts }) ∧
    (s.turns = [] → s.block.enabled = true → Sys2Proof.decode (.fsmState s.block.state) = .ok i →
      step s = exec i s) ∧
    (∀ cmd l c, s.turns = .host :: ts → s.program = .drive cmd l c :: ps →
      Sys2Proof.decode (.hostCmd cmd l c) = .ok i → step s = exec i { s with turns := ts, program := ps }) ∧
    (∀ cmd l c, s.turns = [] → s.block.enabled = false → s.program = .drive cmd l c :: ps →
      Sys2Proof.decode (.hostCmd cmd l c) = .ok i → step s = exec i { s with program := ps }) ∧
    (∀ tag raw, s.turns = .host :: ts → s.program = .normalize tag raw :: ps →
      Sys2Proof.decode (.inputShape tag raw) = .ok i → step s = exec i { s with turns := ts, program := ps }) ∧
    (∀ w, s.turns = .cursor w :: ts → Sys2Proof.decode (.cursorOp w) = .ok i →
      step s = exec i { s with turns := ts }) ∧
    (s.turns = .host :: ts → s.program = [] → step s = exec .nop { s with turns := ts }) ∧
    (s.turns = [] → s.block.enabled = false → s.program = [] → step s = exec .nop s)

/-- A `STATE` from 20 to 31 has no step and no meaning, and no step writes one (rule R180). -/
def Obligations.ReservedStatesHaveNoStep : Prop :=
  (∀ s : State, 20 ≤ s.block.state.toNat → step s = .refused .reservedState) ∧
  (∀ s t : State, step s = .next t → t.block.state.toNat < 20)

/-- The reserved shape tag 11 names no input: the host gets `MalformedInput` and nothing else changes
(rules R93, R127). -/
def Obligations.ReservedTagIsMalformedInput : Prop :=
  ∀ (s : State) (raw : RawOperands) (ts : List Turn) (ps : List HostOp), s.block.reservedValue = none →
    s.turns = .host :: ts → s.program = .normalize 0b11#2 raw :: ps →
    step s = .next { s with turns := ts, program := ps, norm := some .malformedInput }

/-- IDLE, DONE and ERROR have no micro-step: they hold (rules R160, R178, R179, R181). -/
def Obligations.QuiescentStatesHold : Prop :=
  ∀ s : State, exec .sIdle s = .next s ∧ exec .sDone s = .next s ∧ exec .sError s = .next s

/-! ## Host commands (43_host_commands.md) -/

/-- NOP changes nothing, in every state (rule R211). -/
def Obligations.NopChangesNothing : Prop :=
  (∀ l c, Sys2Proof.decode (.hostCmd 0b00#2 l c) = .ok .nop) ∧ ∀ s : State, exec .nop s = .next s

/-- DECODE and DECODE_FULL whole (rules R140, R212, R213): an accepted one leaves the ports latched, the mode set, the
cursor and every other register 0, and the walk at SOF, or ERROR with FrameTooLong for a length over 130 (`LEN` then
0); a busy block only notes the overrun. `m` is 0 for DECODE and 1 for DECODE_FULL. What a
command of a length over 130 leaves of the mode, the old result and `LEN` is deduced (notes/assumptions/16.md). -/
def Obligations.CommandsLatchAndStart : Prop :=
  ∀ (s : State) (l : BitVec 8) (c : Cells),
    let latched (m : BitVec 1) : Block := { Block.reset with mode := m, buf := c, len := l, state := 1#5 }
    let tooLong (m : BitVec 1) : Block :=
      { Block.reset with mode := m, buf := c, state := 19#5, errKind := 1#3, errA := BitVec.ofNat 16 l.toNat }
    let ready := s.block.state = 0#5 ∨ s.block.state = 18#5 ∨ s.block.state = 19#5
    Sys2Proof.decode (.hostCmd 0b01#2 l c) = .ok (.decode l c) ∧
    Sys2Proof.decode (.hostCmd 0b10#2 l c) = .ok (.decodeFull l c) ∧
    (ready → l.toNat ≤ 130 →
      exec (.decode l c) s = .next { s with block := latched 0#1 } ∧
      exec (.decodeFull l c) s = .next { s with block := latched 1#1 }) ∧
    (ready → 130 < l.toNat →
      exec (.decode l c) s = .next { s with block := tooLong 0#1 } ∧
      exec (.decodeFull l c) s = .next { s with block := tooLong 1#1 }) ∧
    (¬ ready →
      exec (.decode l c) s = .next { s with block := { s.block with ovr := 1#1 } } ∧
      exec (.decodeFull l c) s = .next { s with block := { s.block with ovr := 1#1 } })

/-- A rejected command sets `OVR` and changes nothing else: a decode command while the block is not quiescent, and
the reserved code in any state (rule R214). -/
def Obligations.RejectedCommandsOnlySetOverrun : Prop :=
  ∀ (s : State) (l : BitVec 8) (c : Cells),
    Sys2Proof.decode (.hostCmd 0b11#2 l c) = .ok .reservedCmd ∧
    exec .reservedCmd s = .next { s with block := { s.block with ovr := 1#1 } } ∧
    (s.block.state ≠ 0#5 → s.block.state ≠ 18#5 → s.block.state ≠ 19#5 →
      exec (.decode l c) s = .next { s with block := { s.block with ovr := 1#1 } } ∧
      exec (.decodeFull l c) s = .next { s with block := { s.block with ovr := 1#1 } })

/-- What every operation does to `OVR` (rule R32): a rejected command sets it, an accepted one and reset clear it, and
nothing else writes it. -/
def Obligations.OverrunFlagWriters : Prop :=
  (∀ (s t : State) (rest : List Turn), s.turns = .reset :: rest → step s = .next t → t.block.ovr = 0#1) ∧
  ∀ (i : Instr) (s t : State), exec i s = .next t →
    (∀ l c, i = .decode l c ∨ i = .decodeFull l c →
      t.block.ovr = if s.block.state = 0#5 ∨ s.block.state = 18#5 ∨ s.block.state = 19#5 then 0#1 else 1#1) ∧
    (i = .reservedCmd → t.block.ovr = 1#1) ∧
    ((∀ l c, i ≠ .decode l c ∧ i ≠ .decodeFull l c) → i ≠ .reservedCmd → t.block.ovr = s.block.ovr)

/-! ## Results on the ports (10_state.md, 43_host_commands.md) -/

/-- `STATUS`, field by field (rule R33). -/
def Obligations.StatusWordFields : Prop :=
  ∀ b : Block,
    b.status.extractLsb' 0 5 = b.state ∧
    (b.status.getLsbD 5 = true ↔ b.state ≠ 0#5 ∧ b.state ≠ 18#5 ∧ b.state ≠ 19#5) ∧
    (b.status.getLsbD 6 = true ↔ b.state = 18#5) ∧
    (b.status.getLsbD 7 = true ↔ b.state = 19#5) ∧
    b.status.extractLsb' 8 1 = b.ovr ∧ b.status.extractLsb' 9 1 = b.mode ∧ b.status.extractLsb' 10 6 = 0#6

/-- The result view (rule R216): empty outside DONE, the sensor and the data in DONE, and the frame in DONE in full
mode alone. -/
def Obligations.ResultViewOnlyInDone : Prop :=
  ∀ b : Block,
    (b.state ≠ 18#5 → b.resSensor = 0#3 ∧ b.resData = 0#120 ∧ b.resFrame = 0#68) ∧
    (b.state = 18#5 → b.resSensor = b.sensor ∧ b.resData = b.fData) ∧
    (b.state = 18#5 → b.mode = 0#1 → b.resFrame = 0#68) ∧
    (b.state = 18#5 → b.mode = 1#1 → b.resFrame = b.pack)

/-- Reading the packed frame back by the bit numbers of rule R97's table gives the frame the registers hold, an
absent field where its presence flag is 0. -/
def Obligations.FramePortRoundTrip : Prop := ∀ b : Block, frameOf b.pack b.fData = b.frame

/-- The error registers read back (rules R94, R95, R218): the error the block raised, for every error the block can
raise. -/
def Obligations.ErrorRegistersRoundTrip : Prop :=
  (∀ n, n < 256 → let e := DecodeError.frameTooLong n; errorOf e.kind e.argA e.argB = some e) ∧
  (∀ n k, n < 128 → k < 256 → let e := DecodeError.insufficientBits n k; errorOf e.kind e.argA e.argB = some e) ∧
  (∀ f v, v < 2 → let e := DecodeError.invalidFixedBit f v; errorOf e.kind e.argA e.argB = some e) ∧
  (∀ id, id < 2048 → let e := DecodeError.unknownArbitrationId id; errorOf e.kind e.argA e.argB = some e)

/-! ## The normalizer (40_normalizer.md) -/

/-- `uint` is the sum of rule R10. -/
def Obligations.UintIsBigEndianSum : Prop :=
  ∀ s : BitSeq, uint s = ∑ k ∈ Finset.range s.length, (s.getD k false).toNat * 2 ^ (s.length - 1 - k)

/-- `minbin` (rule R124): `[0]` for 0, and for `v > 0` the one sequence with first bit 1 and value `v`, of length
`floor(log2 v) + 1`. -/
def Obligations.MinbinIsTheShortestForm : Prop :=
  minbin 0 = [false] ∧
  ∀ v : Nat, 0 < v →
    (minbin v).head? = some true ∧ uint (minbin v) = v ∧ (minbin v).length = Nat.log2 v + 1 ∧
    ∀ m : BitSeq, m.head? = some true → uint m = v → m = minbin v

/-- NORM_TEXT (rules R121, R125, R126, R129): empty text, base-2 text with its width kept, other decimal text, and
everything else malformed whatever its length; a sequence over 130 bits is too long. No block state is written. -/
def Obligations.TextNormalizes : Prop :=
  (∀ raw, Sys2Proof.decode (.inputShape 0b00#2 raw) = .ok (.normText raw.text)) ∧
  ∀ (str : List Char) (s : State),
    let answer (r : NormResult) : Result := .next { s with norm := some r }
    let value := str.foldl (fun a c => 10 * a + (c.toNat - 48)) 0
    (str = [] → exec (.normText str) s = answer (.ok [])) ∧
    (str ≠ [] → (∀ c ∈ str, c = '0' ∨ c = '1') →
      (str.length ≤ 130 → exec (.normText str) s = answer (.ok (str.map (fun c => decide (c = '1'))))) ∧
      (130 < str.length → exec (.normText str) s = answer (.frameTooLong str.length))) ∧
    ((∀ c ∈ str, '0' ≤ c ∧ c ≤ '9') → (∃ c ∈ str, c ≠ '0' ∧ c ≠ '1') →
      ((minbin value).length ≤ 130 → exec (.normText str) s = answer (.ok (minbin value))) ∧
      (130 < (minbin value).length → exec (.normText str) s = answer (.frameTooLong (minbin value).length))) ∧
    ((∃ c ∈ str, ¬ ('0' ≤ c ∧ c ≤ '9')) → exec (.normText str) s = answer .malformedInput)

/-- NORM_BYTES (rule R122): octets that are the UTF-8 encoding of a text are handled as that text, and octets that are
the encoding of no text are malformed. The encoding is that of Lean's library (notes/assumptions/12.md). -/
def Obligations.BytesNormalizeAsText : Prop :=
  (∀ raw, Sys2Proof.decode (.inputShape 0b01#2 raw) = .ok (.normBytes raw.bytes)) ∧
  (∀ (cs : List Char) (s : State),
    exec (.normBytes (utf8Octets cs)) s = .next { s with norm := some (normalizeRaw (.text cs)) }) ∧
  (∀ (b : List Byte) (s : State), (∀ cs, b ≠ utf8Octets cs) →
    exec (.normBytes b) s = .next { s with norm := some .malformedInput })

/-- NORM_INT (rule R123): a negative number is malformed, and any other is its shortest form, too long from
`2^130` on. -/
def Obligations.IntegersNormalize : Prop :=
  (∀ raw, Sys2Proof.decode (.inputShape 0b10#2 raw) = .ok (.normInt raw.int)) ∧
  ∀ (v : Int) (s : State),
    (v < 0 → exec (.normInt v) s = .next { s with norm := some .malformedInput }) ∧
    (0 ≤ v → v < 2 ^ 130 → exec (.normInt v) s = .next { s with norm := some (.ok (minbin v.toNat)) }) ∧
    (2 ^ 130 ≤ v →
      exec (.normInt v) s = .next { s with norm := some (.frameTooLong (Nat.log2 v.toNat + 1)) })

/-- The hand-off (rule R131): the length on `in_len`, the bits on `in_bits` from index 0, zeros above; and the cells
below the length are the sequence again. -/
def Obligations.PortsCarryTheSequence : Prop :=
  ∀ bits : BitSeq, bits.length ≤ 130 →
    (toPortLen bits).toNat = bits.length ∧ (∀ i, i < 130 → (toPort bits).getLsbD i = bits.getD i false) ∧
    slice (toPort bits) 0 bits.length = bits

/-- A positive integer fails at the block's start of frame (rule R130). -/
def Obligations.PositiveIntegersFailAtStartOfFrame : Prop :=
  ∀ (full : Bool) (text : List Char) (bytes : List Byte) (v : Int) (map : SensorMap), 0 < v → v < 2 ^ 130 →
    libraryResult full 0b10#2 { text := text, bytes := bytes, int := v } map =
      .error (.invalidFixedBit .startOfFrame 1)

/-! ## The cursor and the buffer (41_bit_cursor.md, 20_memory.md) -/

/-- `MemRead` (rule R60): inside the sequence it is the unsigned value of its cells, and of no cells it is 0. -/
def Obligations.MemReadReadsItsCells : Prop :=
  ∀ (b : Block) (p n : Nat), b.len.toNat ≤ 130 → p + n ≤ b.len.toNat →
    memRead b p 0 = .ok 0 ∧
    ∃ v, memRead b p n = .ok v ∧ v < 2 ^ n ∧
      ∀ k, k < n → v.testBit (n - 1 - k) = b.buf.getLsbD (p + k)

/-- TAKE (rule R141): the next `n` bits in wire order and the cursor past them, or `InsufficientBits(n, LEN - POS)`
with the cursor unmoved. Issuing the word on its own, and `taken`, are the model's (notes/assumptions/4.md), and so is
what it says of a count above 127, which has no word (notes/assumptions/13.md). -/
def Obligations.TakeReturnsTheNextBits : Prop :=
  ∀ (s : State) (n : Nat), s.block.cursorOk →
    (n ≤ s.block.len.toNat - s.block.pos.toNat →
      exec (.take n) s = .next { s with
        block := { s.block with pos := s.block.pos + BitVec.ofNat 8 n }
        taken := some (.bits ((List.range n).map fun k => s.block.buf.getLsbD (s.block.pos.toNat + k))) }) ∧
    (s.block.len.toNat - s.block.pos.toNat < n →
      exec (.take n) s = .next { s with block := s.block.shortOf n })

/-- TAKE_UINT (rule R142): the same bits as one unsigned value, the first the most significant; a width of 0 gives 0
and never fails. Issuing the word on its own, and `taken`, are the model's (notes/assumptions/4.md), and so is what it
says of a count above 127, which has no word (notes/assumptions/13.md). -/
def Obligations.TakeUintReturnsTheValue : Prop :=
  ∀ (s : State) (n : Nat), s.block.cursorOk →
    exec (.takeUint 0) s = .next { s with taken := some (.uint 0) } ∧
    (n ≤ s.block.len.toNat - s.block.pos.toNat →
      ∃ v, s.block.FieldAt n v ∧ exec (.takeUint n) s = .next { s with
        block := { s.block with pos := s.block.pos + BitVec.ofNat 8 n }
        taken := some (.uint v) }) ∧
    (s.block.len.toNat - s.block.pos.toNat < n →
      exec (.takeUint n) s = .next { s with block := s.block.shortOf n })

/-! ## The field walk, state by state (42_field_walk.md) -/

/-- S_SOF (rule R161). -/
def Obligations.StartOfFrameMicroStep : Prop :=
  ∀ s : State, s.block.cursorOk →
    ReadsField 1#5 .sSof s 1 fun v =>
      if v = 0 then { s.block with pos := s.block.pos + 1#8, fSof := 0#1, state := 2#5 }
      else { s.block with
        pos := s.block.pos + 1#8, fSof := 1#1, errKind := 3#3, errA := 1#16, errB := 1#8, state := 19#5 }

/-- S_ARB_ID and S_EXT_ID (rules R162, R167): both parts of the identifier, any value. -/
def Obligations.IdentifierMicroSteps : Prop :=
  ∀ s : State, s.block.cursorOk →
    (ReadsField 2#5 .sArbId s 11 fun v =>
      { s.block with pos := s.block.pos + 11#8, fArb := BitVec.ofNat 11 v, state := 3#5 }) ∧
    (ReadsField 7#5 .sExtId s 18 fun v =>
      { s.block with pos := s.block.pos + 18#8, fExt := BitVec.ofNat 18 v, fExtV := 1#1, state := 8#5 })

/-- S_CLASSIFY (rules R163, R96): the type's code, or UnknownArbitrationId with the ID; no bit is read. -/
def Obligations.ClassifyMicroStep : Prop :=
  Sys2Proof.decode (.fsmState 3#5) = .ok .sClassify ∧ ∀ s : State,
    (lookupSensor s.sensorMap s.block.fArb = none →
      exec .sClassify s = .next { s with block := { s.block with
        errKind := 4#3, errA := BitVec.ofNat 16 s.block.fArb.toNat, errB := 0#8, state := 19#5 } }) ∧
    (∀ t code, (t, code) ∈ [(SensorType.temperature, 1#3), (.acceleration, 2#3), (.wheelSpeed, 3#3),
        (.suspension, 4#3), (.fuelLevel, 5#3)] →
      lookupSensor s.sensorMap s.block.fArb = some t →
      exec .sClassify s = .next { s with block := { s.block with sensor := code, state := 4#5 } })

/-- S_RTR, S_RTR2, S_RESERVED and S_ACK (rules R164, R168, R169, R174): one bit, recorded and not checked. -/
def Obligations.UncheckedBitMicroSteps : Prop :=
  ∀ s : State, s.block.cursorOk →
    ReadsField 4#5 .sRtr s 1
      (fun v => { s.block with pos := s.block.pos + 1#8, fRtr := BitVec.ofNat 1 v, state := 5#5 }) ∧
    ReadsField 8#5 .sRtr2 s 1
      (fun v => { s.block with pos := s.block.pos + 1#8, fRtr := BitVec.ofNat 1 v, state := 9#5 }) ∧
    ReadsField 9#5 .sReserved s 1
      (fun v => { s.block with pos := s.block.pos + 1#8, fRsv := BitVec.ofNat 1 v, state := 10#5 }) ∧
    ReadsField 14#5 .sAck s 1
      (fun v => { s.block with pos := s.block.pos + 1#8, fAck := BitVec.ofNat 1 v, state := 15#5 })

/-- S_IDE (rule R165): 1 goes to SRR, 0 to RESERVED with both optional fields absent. -/
def Obligations.IdeMicroStepBranches : Prop :=
  ∀ s : State, s.block.cursorOk →
    ReadsField 5#5 .sIde s 1 fun v =>
      if v = 1 then { s.block with pos := s.block.pos + 1#8, fIde := 1#1, state := 6#5 }
      else { s.block with pos := s.block.pos + 1#8, fIde := 0#1, fSrrV := 0#1, fExtV := 0#1, state := 9#5 }

/-- S_SRR (rule R166): the first RTR copied, present; no bit read, no error, in every state. -/
def Obligations.SrrMicroStepCopiesRtr : Prop :=
  Sys2Proof.decode (.fsmState 6#5) = .ok .sSrr ∧ ∀ s : State,
    exec .sSrr s = .next { s with block := { s.block with fSrr := s.block.fRtr, fSrrV := 1#1, state := 7#5 } }

/-- S_DLC (rule R170): every value from 0 to 15. -/
def Obligations.DlcMicroStep : Prop :=
  ∀ s : State, s.block.cursorOk →
    ReadsField 10#5 .sDlc s 4 fun v =>
      { s.block with pos := s.block.pos + 4#8, fDlc := BitVec.ofNat 4 v, state := 11#5 }

/-- S_DATA (rule R171): `8 * F_DLC` bits; with a DLC of 0 it never fails. -/
def Obligations.DataMicroStep : Prop :=
  ∀ s : State, s.block.cursorOk →
    (ReadsField 11#5 .sData s (8 * s.block.fDlc.toNat) fun v =>
      { s.block with
        pos := s.block.pos + BitVec.ofNat 8 (8 * s.block.fDlc.toNat), fData := BitVec.ofNat 120 v, state := 12#5 }) ∧
    (s.block.fDlc = 0#4 → exec .sData s = .next { s with block := { s.block with fData := 0#120, state := 12#5 } })

/-- S_CRC_DEL and S_ACK_DEL (rules R173, R175): the bit must be 1, and a 0 is the error with the field's own code. -/
def Obligations.DelimiterMicroSteps : Prop :=
  ∀ s : State, s.block.cursorOk →
    (ReadsField 13#5 .sCrcDel s 1 fun v =>
      if v = 1 then { s.block with pos := s.block.pos + 1#8, fCrcd := 1#1, state := 14#5 }
      else { s.block with
        pos := s.block.pos + 1#8, fCrcd := 0#1, errKind := 3#3, errA := 2#16, errB := 0#8, state := 19#5 }) ∧
    (ReadsField 15#5 .sAckDel s 1 fun v =>
      if v = 1 then { s.block with pos := s.block.pos + 1#8, fAckd := 1#1, state := 16#5 }
      else { s.block with
        pos := s.block.pos + 1#8, fAckd := 0#1, errKind := 3#3, errA := 3#16, errB := 0#8, state := 19#5 })

/-- S_CRC, S_EOF and S_IFS (rules R172, R176, R177): recorded, not checked; after IFS the walk is in DONE. -/
def Obligations.UncheckedFieldMicroSteps : Prop :=
  ∀ s : State, s.block.cursorOk →
    (ReadsField 12#5 .sCrc s 15 fun v =>
      { s.block with pos := s.block.pos + 15#8, fCrc := BitVec.ofNat 15 v, state := 13#5 }) ∧
    (ReadsField 16#5 .sEof s 7 fun v =>
      { s.block with pos := s.block.pos + 7#8, fEof := BitVec.ofNat 7 v, state := 17#5 }) ∧
    (ReadsField 17#5 .sIfs s 3 fun v =>
      { s.block with pos := s.block.pos + 3#8, fIfs := BitVec.ofNat 3 v, state := 18#5 })

/-- The default table (rules R8, R36): IDs 1 to 5 and no other. -/
def Obligations.DefaultTableMapsOneToFive : Prop :=
  ∀ id : BitVec 11, lookupSensor defaultSensorMap id =
    if id = 1#11 then some .temperature else if id = 2#11 then some .acceleration
    else if id = 3#11 then some .wheelSpeed else if id = 4#11 then some .suspension
    else if id = 5#11 then some .fuelLevel else none

/-- Every partial map from IDs to types can be configured (rule R8, D26), so a statement over all states covers every
table. -/
def Obligations.EveryTableIsRepresentable : Prop :=
  ∀ f : BitVec 11 → Option SensorType, ∃ map : SensorMap, ∀ id, lookupSensor map id = f id

/-! ## Frames: what an operation leaves alone -/

/-- No operation changes `BUF`, `LEN` or `MODE` but an accepted command (rules R22, R23, R26, R74), and none changes
the table, the host's program, the schedule or the last call's result (rule R36). The normalizer's result is written
by the input shapes alone, and `taken` by the cursor operations alone. -/
def Obligations.OnlyCommandsWriteTheBuffer : Prop :=
  ∀ (i : Instr) (s t : State), exec i s = .next t →
    (t.sensorMap = s.sensorMap ∧ t.program = s.program ∧ t.turns = s.turns ∧ t.returned = s.returned) ∧
    ((∀ l c, i ≠ .decode l c ∧ i ≠ .decodeFull l c) →
      t.block.buf = s.block.buf ∧ t.block.len = s.block.len ∧ t.block.mode = s.block.mode) ∧
    ((∀ x, i ≠ .normText x) → (∀ x, i ≠ .normBytes x) → (∀ x, i ≠ .normInt x) → t.norm = s.norm) ∧
    ((∀ n, i ≠ .take n) → (∀ n, i ≠ .takeUint n) → t.taken = s.taken)

/-- The normalizer reads and writes no block state (rule R120). -/
def Obligations.NormalizerLeavesTheBlock : Prop :=
  ∀ (s t : State) (i : Instr), (∃ x, i = .normText x) ∨ (∃ x, i = .normBytes x) ∨ (∃ x, i = .normInt x) →
    exec i s = .next t → t.block = s.block ∧ ∀ b, exec i { s with block := b } = .next { t with block := b }

/-- Each field register is written by the micro-step rule R27's table names and by no other, the presence flags,
`SENSOR` and the cursor by theirs (rules R24, R27 to R30), and the error registers by error entry alone (rule R31). A
decode command's latch is the exception for all of them and is left out here. -/
def Obligations.RegistersHaveTheirOwnWriters : Prop :=
  ∀ (i : Instr) (s t : State), exec i s = .next t → (∀ l c, i ≠ .decode l c ∧ i ≠ .decodeFull l c) →
    (i ≠ .sSof → t.block.fSof = s.block.fSof) ∧ (i ≠ .sArbId → t.block.fArb = s.block.fArb) ∧
    (i ≠ .sRtr → i ≠ .sRtr2 → t.block.fRtr = s.block.fRtr) ∧ (i ≠ .sIde → t.block.fIde = s.block.fIde) ∧
    (i ≠ .sSrr → t.block.fSrr = s.block.fSrr) ∧ (i ≠ .sSrr → i ≠ .sIde → t.block.fSrrV = s.block.fSrrV) ∧
    (i ≠ .sExtId → t.block.fExt = s.block.fExt) ∧ (i ≠ .sExtId → i ≠ .sIde → t.block.fExtV = s.block.fExtV) ∧
    (i ≠ .sReserved → t.block.fRsv = s.block.fRsv) ∧ (i ≠ .sDlc → t.block.fDlc = s.block.fDlc) ∧
    (i ≠ .sData → t.block.fData = s.block.fData) ∧ (i ≠ .sCrc → t.block.fCrc = s.block.fCrc) ∧
    (i ≠ .sCrcDel → t.block.fCrcd = s.block.fCrcd) ∧ (i ≠ .sAck → t.block.fAck = s.block.fAck) ∧
    (i ≠ .sAckDel → t.block.fAckd = s.block.fAckd) ∧ (i ≠ .sEof → t.block.fEof = s.block.fEof) ∧
    (i ≠ .sIfs → t.block.fIfs = s.block.fIfs) ∧ (i ≠ .sClassify → t.block.sensor = s.block.sensor) ∧
    (i = .sClassify ∨ i = .sSrr → t.block.pos = s.block.pos) ∧
    (t.block.state ≠ 19#5 →
      t.block.errKind = s.block.errKind ∧ t.block.errA = s.block.errA ∧ t.block.errB = s.block.errB)

/-- No step changes `SENSOR_MAP` (rule R36). -/
def Obligations.StepKeepsTheTable : Prop := ∀ s t : State, step s = .next t → t.sensorMap = s.sensorMap

/-- The mode changes nothing a micro-step does (rule R26): with the other mode it does the same, the mode apart. -/
def Obligations.ModeDoesNotAffectTheWalk : Prop :=
  ∀ (code : BitVec 5) (i : Instr) (s t : State) (m : BitVec 1), Sys2Proof.decode (.fsmState code) = .ok i →
    exec i s = .next t →
    exec i { s with block := { s.block with mode := m } } = .next { t with block := { t.block with mode := m } }

/-- Cells at index `LEN` and above are never read (rules R22, R62): a micro-step over another buffer with the same
cells below `LEN` does the same, the buffer apart. -/
def Obligations.CellsPastTheLengthAreNeverRead : Prop :=
  ∀ (code : BitVec 5) (i : Instr) (s t : State) (c : Cells), Sys2Proof.decode (.fsmState code) = .ok i →
    (∀ k, k < s.block.len.toNat → c.getLsbD k = s.block.buf.getLsbD k) → exec i s = .next t →
    exec i { s with block := { s.block with buf := c } } = .next { t with block := { t.block with buf := c } }

/-! ## Invariants -/

/-- Every step from a legal state that answers a next state answers a legal one. -/
def Obligations.StepKeepsLegalStates : Prop := ∀ s t : State, s.Inv → step s = .next t → t.Inv

/-- From a legal state a step never stops: no fault and no refusal. -/
def Obligations.LegalStatesAlwaysStep : Prop := ∀ s : State, s.Inv → ∃ t, step s = .next t

/-- `0 <= POS <= LEN <= 130` is kept by every step under every schedule, cursor operations on their own included
(rules R23, R24). -/
def Obligations.StepKeepsTheCursorInBounds : Prop :=
  ∀ s t : State, s.block.cursorOk → step s = .next t → t.block.cursorOk

/-- A step of the block never moves the cursor back, and never writes `BUF` or `LEN` (rules R24, R70): on a turn
prescribed for it, and on the one it takes with none prescribed while it is enabled (notes/assumptions/6.md). -/
def Obligations.TheWalkNeverMovesBack : Prop :=
  ∀ s t : State, s.block.cursorOk →
    (∃ ts, s.turns = .block :: ts) ∨ (s.turns = [] ∧ s.block.enabled = true) → step s = .next t →
    s.block.pos.toNat ≤ t.block.pos.toNat ∧ t.block.buf = s.block.buf ∧ t.block.len = s.block.len

/-- What a legal block in DONE holds (rule R39). -/
def Obligations.DoneHoldsAWholeFrame : Prop :=
  ∀ b : Block, b.Inv →
    (b.pos.toNat ≤ b.len.toNat ∧ b.len.toNat ≤ 130) ∧ (b.errKind ≠ 0#3 ↔ b.state = 19#5) ∧
    (b.state = 18#5 →
      1 ≤ b.sensor.toNat ∧ b.sensor.toNat ≤ 5 ∧ b.fSof = 0#1 ∧ b.fCrcd = 1#1 ∧ b.fAckd = 1#1 ∧
      b.fSrrV = b.fIde ∧ b.fExtV = b.fIde ∧ b.fData.toNat < 2 ^ (8 * b.fDlc.toNat) ∧
      b.pos.toNat = frameLength b.fIde b.fDlc)

/-- No frame with a DLC over 10, or over 8 when extended, is ever decoded (rule R82). -/
def Obligations.OnlyShortFramesDecode : Prop :=
  ∀ b : Block, b.Inv → b.state = 18#5 →
    (b.fIde = 0#1 → b.fDlc.toNat ≤ 10) ∧ (b.fIde = 1#1 → b.fDlc.toNat ≤ 8)

/-! ## The walk and the library calls as wholes -/

/-- The fields of a decoded frame stand at the indices of rule R80's tables, in both formats, and the fixed bits and
the ID are as its value rules say. -/
def Obligations.FieldsStandWhereTheFormatSays : Prop :=
  ∀ (bits : BitSeq) (map : SensorMap) (t : SensorType) (f : Frame), walk bits map = .ok t f →
    let field (i n : Nat) : Nat := uint ((bits.drop i).take n)
    let x := if f.ide = 1#1 then 19 else 0
    let d := f.dlc.toNat
    f.sof = 0#1 ∧ field 0 1 = 0 ∧ f.arb.toNat = field 1 11 ∧ lookupSensor map f.arb = some t ∧
    f.ide.toNat = field 13 1 ∧
    (f.ide = 0#1 → f.rtr.toNat = field 12 1 ∧ f.srr = none ∧ f.ext = none) ∧
    (f.ide = 1#1 → f.srr = some (BitVec.ofNat 1 (field 12 1)) ∧ f.ext = some (BitVec.ofNat 18 (field 14 18)) ∧
      f.rtr.toNat = field 32 1) ∧
    f.rsv.toNat = field (14 + x) 1 ∧ d = field (15 + x) 4 ∧ f.data.toNat = field (19 + x) (8 * d) ∧
    f.crc.toNat = field (19 + x + 8 * d) 15 ∧ f.crcd = 1#1 ∧ field (34 + x + 8 * d) 1 = 1 ∧
    f.ack.toNat = field (35 + x + 8 * d) 1 ∧ f.ackd = 1#1 ∧ field (36 + x + 8 * d) 1 = 1 ∧
    f.eof.toNat = field (37 + x + 8 * d) 7 ∧ f.ifs.toNat = field (44 + x + 8 * d) 3 ∧
    frameLength f.ide f.dlc ≤ bits.length

/-- Bits after the last field are ignored (rules R81, R177): a decoded frame decodes to the same result with any bits
after it. -/
def Obligations.LeftoverBitsAreIgnored : Prop :=
  ∀ (bits extra : BitSeq) (map : SensorMap) (t : SensorType) (f : Frame), walk bits map = .ok t f →
    walk (bits ++ extra) map = .ok t f

/-- An unmapped ID is reported whatever follows it (rules R163, R239). -/
def Obligations.UnknownIdFailsFast : Prop :=
  ∀ (id rest : BitSeq) (map : SensorMap), id.length = 11 → lookupSensor map (BitVec.ofNat 11 (uint id)) = none →
    walk (false :: (id ++ rest)) map = .error (.unknownArbitrationId (uint id))

/-- The micro-steps compute the walk (rule R182): from a legal block at SOF, with no turn prescribed (the model's
default schedule, notes/assumptions/6.md), at most 17 steps lead to DONE with the walk's sensor type and frame, or to
ERROR with the walk's error. -/
def Obligations.MicroStepsComputeTheWalk : Prop :=
  ∀ s : State, s.Inv → s.turns = [] → s.block.state = 1#5 →
    ∃ k t, k ≤ 17 ∧ runSteps k s = .next t ∧ t.block.mode = s.block.mode ∧ t.program = s.program ∧
      match walk (slice s.block.buf 0 s.block.len.toNat) s.sensorMap with
      | .ok ty f => t.block.state = 18#5 ∧ t.block.sensor = sensorCode ty ∧ t.block.frame = f
      | .error e => t.block.state = 19#5 ∧ t.block.errKind = e.kind ∧ t.block.errA = e.argA ∧ t.block.errB = e.argB

/-- The step counts of rule R183(f), with no turn prescribed (notes/assumptions/6.md): a frame that decodes is in DONE after exactly 14 micro-steps when standard and 17
when extended, and not a step earlier. -/
def Obligations.FramesTakeFourteenOrSeventeenSteps : Prop :=
  ∀ (s : State) (ty : SensorType) (f : Frame), s.Inv → s.turns = [] → s.block.state = 1#5 →
    walk (slice s.block.buf 0 s.block.len.toNat) s.sensorMap = .ok ty f →
    let n := if f.ide = 1#1 then 17 else 14
    (∃ t, runSteps n s = .next t ∧ t.block.state = 18#5) ∧
    ∀ k, k < n → ∃ t, runSteps k s = .next t ∧ t.block.enabled = true

/-- Every decode ends (rule R217): from any legal state with no turn prescribed (notes/assumptions/6.md), at most 17
steps lead to DONE or ERROR, in which no micro-step is enabled. -/
def Obligations.EveryDecodeEnds : Prop :=
  ∀ s : State, s.Inv → s.turns = [] → s.block.enabled = true →
    ∃ k t, k ≤ 17 ∧ runSteps k s = .next t ∧ (t.block.state = 18#5 ∨ t.block.state = 19#5)

/-- The library calls are the normalizer and the walk (rule R219): a call at the head of the host's program, from any
legal state with no turn prescribed (notes/assumptions/6.md), returns what the function of rule R219 gives for the
message and the table, whatever the block held before. The host's own steps of a call, the field `returned` and so the
count of 40 are the model's (notes/assumptions/5.md). -/
def Obligations.LibraryCallsReturnTheWalk : Prop :=
  ∀ (s : State) (full : Bool) (tag : BitVec 2) (raw : RawOperands) (rest : List HostOp),
    s.Inv → s.turns = [] → s.program = .call full tag raw :: rest →
    ∃ k t, k ≤ 40 ∧ runSteps k s = .next t ∧ t.program = rest ∧
      t.returned = some (libraryResult full tag raw s.sensorMap)
end

