-- ==== Sys2Proof/Laws/State.lean ====
section
/-! SUPPORT. What each named update of the block and of the state does to each field: one lemma a field and an
update, so that no later proof unfolds a record update. -/

namespace Sys2Proof.Machine

@[simp] theorem Block.goto_state (b : Block) (c : BitVec 5) : (b.goto c).state = c := rfl
@[simp] theorem Block.goto_mode (b : Block) (c : BitVec 5) : (b.goto c).mode = b.mode := rfl
@[simp] theorem Block.goto_buf (b : Block) (c : BitVec 5) : (b.goto c).buf = b.buf := rfl
@[simp] theorem Block.goto_len (b : Block) (c : BitVec 5) : (b.goto c).len = b.len := rfl
@[simp] theorem Block.goto_pos (b : Block) (c : BitVec 5) : (b.goto c).pos = b.pos := rfl
@[simp] theorem Block.goto_fSof (b : Block) (c : BitVec 5) : (b.goto c).fSof = b.fSof := rfl
@[simp] theorem Block.goto_fArb (b : Block) (c : BitVec 5) : (b.goto c).fArb = b.fArb := rfl
@[simp] theorem Block.goto_fRtr (b : Block) (c : BitVec 5) : (b.goto c).fRtr = b.fRtr := rfl
@[simp] theorem Block.goto_fIde (b : Block) (c : BitVec 5) : (b.goto c).fIde = b.fIde := rfl
@[simp] theorem Block.goto_fSrr (b : Block) (c : BitVec 5) : (b.goto c).fSrr = b.fSrr := rfl
@[simp] theorem Block.goto_fSrrV (b : Block) (c : BitVec 5) : (b.goto c).fSrrV = b.fSrrV := rfl
@[simp] theorem Block.goto_fExt (b : Block) (c : BitVec 5) : (b.goto c).fExt = b.fExt := rfl
@[simp] theorem Block.goto_fExtV (b : Block) (c : BitVec 5) : (b.goto c).fExtV = b.fExtV := rfl
@[simp] theorem Block.goto_fRsv (b : Block) (c : BitVec 5) : (b.goto c).fRsv = b.fRsv := rfl
@[simp] theorem Block.goto_fDlc (b : Block) (c : BitVec 5) : (b.goto c).fDlc = b.fDlc := rfl
@[simp] theorem Block.goto_fData (b : Block) (c : BitVec 5) : (b.goto c).fData = b.fData := rfl
@[simp] theorem Block.goto_fCrc (b : Block) (c : BitVec 5) : (b.goto c).fCrc = b.fCrc := rfl
@[simp] theorem Block.goto_fCrcd (b : Block) (c : BitVec 5) : (b.goto c).fCrcd = b.fCrcd := rfl
@[simp] theorem Block.goto_fAck (b : Block) (c : BitVec 5) : (b.goto c).fAck = b.fAck := rfl
@[simp] theorem Block.goto_fAckd (b : Block) (c : BitVec 5) : (b.goto c).fAckd = b.fAckd := rfl
@[simp] theorem Block.goto_fEof (b : Block) (c : BitVec 5) : (b.goto c).fEof = b.fEof := rfl
@[simp] theorem Block.goto_fIfs (b : Block) (c : BitVec 5) : (b.goto c).fIfs = b.fIfs := rfl
@[simp] theorem Block.goto_sensor (b : Block) (c : BitVec 5) : (b.goto c).sensor = b.sensor := rfl
@[simp] theorem Block.goto_errKind (b : Block) (c : BitVec 5) : (b.goto c).errKind = b.errKind := rfl
@[simp] theorem Block.goto_errA (b : Block) (c : BitVec 5) : (b.goto c).errA = b.errA := rfl
@[simp] theorem Block.goto_errB (b : Block) (c : BitVec 5) : (b.goto c).errB = b.errB := rfl
@[simp] theorem Block.goto_ovr (b : Block) (c : BitVec 5) : (b.goto c).ovr = b.ovr := rfl

@[simp] theorem Block.raise_state (b : Block) (e : DecodeError) : (b.raise e).state = Fsm.error := rfl
@[simp] theorem Block.raise_mode (b : Block) (e : DecodeError) : (b.raise e).mode = b.mode := rfl
@[simp] theorem Block.raise_buf (b : Block) (e : DecodeError) : (b.raise e).buf = b.buf := rfl
@[simp] theorem Block.raise_len (b : Block) (e : DecodeError) : (b.raise e).len = b.len := rfl
@[simp] theorem Block.raise_pos (b : Block) (e : DecodeError) : (b.raise e).pos = b.pos := rfl
@[simp] theorem Block.raise_fSof (b : Block) (e : DecodeError) : (b.raise e).fSof = b.fSof := rfl
@[simp] theorem Block.raise_fArb (b : Block) (e : DecodeError) : (b.raise e).fArb = b.fArb := rfl
@[simp] theorem Block.raise_fRtr (b : Block) (e : DecodeError) : (b.raise e).fRtr = b.fRtr := rfl
@[simp] theorem Block.raise_fIde (b : Block) (e : DecodeError) : (b.raise e).fIde = b.fIde := rfl
@[simp] theorem Block.raise_fSrr (b : Block) (e : DecodeError) : (b.raise e).fSrr = b.fSrr := rfl
@[simp] theorem Block.raise_fSrrV (b : Block) (e : DecodeError) : (b.raise e).fSrrV = b.fSrrV := rfl
@[simp] theorem Block.raise_fExt (b : Block) (e : DecodeError) : (b.raise e).fExt = b.fExt := rfl
@[simp] theorem Block.raise_fExtV (b : Block) (e : DecodeError) : (b.raise e).fExtV = b.fExtV := rfl
@[simp] theorem Block.raise_fRsv (b : Block) (e : DecodeError) : (b.raise e).fRsv = b.fRsv := rfl
@[simp] theorem Block.raise_fDlc (b : Block) (e : DecodeError) : (b.raise e).fDlc = b.fDlc := rfl
@[simp] theorem Block.raise_fData (b : Block) (e : DecodeError) : (b.raise e).fData = b.fData := rfl
@[simp] theorem Block.raise_fCrc (b : Block) (e : DecodeError) : (b.raise e).fCrc = b.fCrc := rfl
@[simp] theorem Block.raise_fCrcd (b : Block) (e : DecodeError) : (b.raise e).fCrcd = b.fCrcd := rfl
@[simp] theorem Block.raise_fAck (b : Block) (e : DecodeError) : (b.raise e).fAck = b.fAck := rfl
@[simp] theorem Block.raise_fAckd (b : Block) (e : DecodeError) : (b.raise e).fAckd = b.fAckd := rfl
@[simp] theorem Block.raise_fEof (b : Block) (e : DecodeError) : (b.raise e).fEof = b.fEof := rfl
@[simp] theorem Block.raise_fIfs (b : Block) (e : DecodeError) : (b.raise e).fIfs = b.fIfs := rfl
@[simp] theorem Block.raise_sensor (b : Block) (e : DecodeError) : (b.raise e).sensor = b.sensor := rfl
@[simp] theorem Block.raise_errKind (b : Block) (e : DecodeError) : (b.raise e).errKind = e.kind := rfl
@[simp] theorem Block.raise_errA (b : Block) (e : DecodeError) : (b.raise e).errA = e.argA := rfl
@[simp] theorem Block.raise_errB (b : Block) (e : DecodeError) : (b.raise e).errB = e.argB := rfl
@[simp] theorem Block.raise_ovr (b : Block) (e : DecodeError) : (b.raise e).ovr = b.ovr := rfl

@[simp] theorem Block.advance_state (b : Block) (n : Nat) : (b.advance n).state = b.state := rfl
@[simp] theorem Block.advance_mode (b : Block) (n : Nat) : (b.advance n).mode = b.mode := rfl
@[simp] theorem Block.advance_buf (b : Block) (n : Nat) : (b.advance n).buf = b.buf := rfl
@[simp] theorem Block.advance_len (b : Block) (n : Nat) : (b.advance n).len = b.len := rfl
@[simp] theorem Block.advance_pos (b : Block) (n : Nat) : (b.advance n).pos = BitVec.ofNat 8 (b.pos.toNat + n) := rfl
@[simp] theorem Block.advance_fSof (b : Block) (n : Nat) : (b.advance n).fSof = b.fSof := rfl
@[simp] theorem Block.advance_fArb (b : Block) (n : Nat) : (b.advance n).fArb = b.fArb := rfl
@[simp] theorem Block.advance_fRtr (b : Block) (n : Nat) : (b.advance n).fRtr = b.fRtr := rfl
@[simp] theorem Block.advance_fIde (b : Block) (n : Nat) : (b.advance n).fIde = b.fIde := rfl
@[simp] theorem Block.advance_fSrr (b : Block) (n : Nat) : (b.advance n).fSrr = b.fSrr := rfl
@[simp] theorem Block.advance_fSrrV (b : Block) (n : Nat) : (b.advance n).fSrrV = b.fSrrV := rfl
@[simp] theorem Block.advance_fExt (b : Block) (n : Nat) : (b.advance n).fExt = b.fExt := rfl
@[simp] theorem Block.advance_fExtV (b : Block) (n : Nat) : (b.advance n).fExtV = b.fExtV := rfl
@[simp] theorem Block.advance_fRsv (b : Block) (n : Nat) : (b.advance n).fRsv = b.fRsv := rfl
@[simp] theorem Block.advance_fDlc (b : Block) (n : Nat) : (b.advance n).fDlc = b.fDlc := rfl
@[simp] theorem Block.advance_fData (b : Block) (n : Nat) : (b.advance n).fData = b.fData := rfl
@[simp] theorem Block.advance_fCrc (b : Block) (n : Nat) : (b.advance n).fCrc = b.fCrc := rfl
@[simp] theorem Block.advance_fCrcd (b : Block) (n : Nat) : (b.advance n).fCrcd = b.fCrcd := rfl
@[simp] theorem Block.advance_fAck (b : Block) (n : Nat) : (b.advance n).fAck = b.fAck := rfl
@[simp] theorem Block.advance_fAckd (b : Block) (n : Nat) : (b.advance n).fAckd = b.fAckd := rfl
@[simp] theorem Block.advance_fEof (b : Block) (n : Nat) : (b.advance n).fEof = b.fEof := rfl
@[simp] theorem Block.advance_fIfs (b : Block) (n : Nat) : (b.advance n).fIfs = b.fIfs := rfl
@[simp] theorem Block.advance_sensor (b : Block) (n : Nat) : (b.advance n).sensor = b.sensor := rfl
@[simp] theorem Block.advance_errKind (b : Block) (n : Nat) : (b.advance n).errKind = b.errKind := rfl
@[simp] theorem Block.advance_errA (b : Block) (n : Nat) : (b.advance n).errA = b.errA := rfl
@[simp] theorem Block.advance_errB (b : Block) (n : Nat) : (b.advance n).errB = b.errB := rfl
@[simp] theorem Block.advance_ovr (b : Block) (n : Nat) : (b.advance n).ovr = b.ovr := rfl

@[simp] theorem Block.reject_state (b : Block) : (b.reject).state = b.state := rfl
@[simp] theorem Block.reject_mode (b : Block) : (b.reject).mode = b.mode := rfl
@[simp] theorem Block.reject_buf (b : Block) : (b.reject).buf = b.buf := rfl
@[simp] theorem Block.reject_len (b : Block) : (b.reject).len = b.len := rfl
@[simp] theorem Block.reject_pos (b : Block) : (b.reject).pos = b.pos := rfl
@[simp] theorem Block.reject_fSof (b : Block) : (b.reject).fSof = b.fSof := rfl
@[simp] theorem Block.reject_fArb (b : Block) : (b.reject).fArb = b.fArb := rfl
@[simp] theorem Block.reject_fRtr (b : Block) : (b.reject).fRtr = b.fRtr := rfl
@[simp] theorem Block.reject_fIde (b : Block) : (b.reject).fIde = b.fIde := rfl
@[simp] theorem Block.reject_fSrr (b : Block) : (b.reject).fSrr = b.fSrr := rfl
@[simp] theorem Block.reject_fSrrV (b : Block) : (b.reject).fSrrV = b.fSrrV := rfl
@[simp] theorem Block.reject_fExt (b : Block) : (b.reject).fExt = b.fExt := rfl
@[simp] theorem Block.reject_fExtV (b : Block) : (b.reject).fExtV = b.fExtV := rfl
@[simp] theorem Block.reject_fRsv (b : Block) : (b.reject).fRsv = b.fRsv := rfl
@[simp] theorem Block.reject_fDlc (b : Block) : (b.reject).fDlc = b.fDlc := rfl
@[simp] theorem Block.reject_fData (b : Block) : (b.reject).fData = b.fData := rfl
@[simp] theorem Block.reject_fCrc (b : Block) : (b.reject).fCrc = b.fCrc := rfl
@[simp] theorem Block.reject_fCrcd (b : Block) : (b.reject).fCrcd = b.fCrcd := rfl
@[simp] theorem Block.reject_fAck (b : Block) : (b.reject).fAck = b.fAck := rfl
@[simp] theorem Block.reject_fAckd (b : Block) : (b.reject).fAckd = b.fAckd := rfl
@[simp] theorem Block.reject_fEof (b : Block) : (b.reject).fEof = b.fEof := rfl
@[simp] theorem Block.reject_fIfs (b : Block) : (b.reject).fIfs = b.fIfs := rfl
@[simp] theorem Block.reject_sensor (b : Block) : (b.reject).sensor = b.sensor := rfl
@[simp] theorem Block.reject_errKind (b : Block) : (b.reject).errKind = b.errKind := rfl
@[simp] theorem Block.reject_errA (b : Block) : (b.reject).errA = b.errA := rfl
@[simp] theorem Block.reject_errB (b : Block) : (b.reject).errB = b.errB := rfl
@[simp] theorem Block.reject_ovr (b : Block) : (b.reject).ovr = 1#1 := rfl

@[simp] theorem Block.latch_state (b : Block) (m : BitVec 1) (l : BitVec 8) (c : Cells) : (b.latch m l c).state = b.state := rfl
@[simp] theorem Block.latch_mode (b : Block) (m : BitVec 1) (l : BitVec 8) (c : Cells) : (b.latch m l c).mode = m := rfl
@[simp] theorem Block.latch_buf (b : Block) (m : BitVec 1) (l : BitVec 8) (c : Cells) : (b.latch m l c).buf = c := rfl
@[simp] theorem Block.latch_len (b : Block) (m : BitVec 1) (l : BitVec 8) (c : Cells) : (b.latch m l c).len = (if l.toNat ≤ Config.maxBits then l else 0#8) := rfl
@[simp] theorem Block.latch_pos (b : Block) (m : BitVec 1) (l : BitVec 8) (c : Cells) : (b.latch m l c).pos = 0#8 := rfl
@[simp] theorem Block.latch_fSof (b : Block) (m : BitVec 1) (l : BitVec 8) (c : Cells) : (b.latch m l c).fSof = 0#1 := rfl
@[simp] theorem Block.latch_fArb (b : Block) (m : BitVec 1) (l : BitVec 8) (c : Cells) : (b.latch m l c).fArb = 0#11 := rfl
@[simp] theorem Block.latch_fRtr (b : Block) (m : BitVec 1) (l : BitVec 8) (c : Cells) : (b.latch m l c).fRtr = 0#1 := rfl
@[simp] theorem Block.latch_fIde (b : Block) (m : BitVec 1) (l : BitVec 8) (c : Cells) : (b.latch m l c).fIde = 0#1 := rfl
@[simp] theorem Block.latch_fSrr (b : Block) (m : BitVec 1) (l : BitVec 8) (c : Cells) : (b.latch m l c).fSrr = 0#1 := rfl
@[simp] theorem Block.latch_fSrrV (b : Block) (m : BitVec 1) (l : BitVec 8) (c : Cells) : (b.latch m l c).fSrrV = 0#1 := rfl
@[simp] theorem Block.latch_fExt (b : Block) (m : BitVec 1) (l : BitVec 8) (c : Cells) : (b.latch m l c).fExt = 0#18 := rfl
@[simp] theorem Block.latch_fExtV (b : Block) (m : BitVec 1) (l : BitVec 8) (c : Cells) : (b.latch m l c).fExtV = 0#1 := rfl
@[simp] theorem Block.latch_fRsv (b : Block) (m : BitVec 1) (l : BitVec 8) (c : Cells) : (b.latch m l c).fRsv = 0#1 := rfl
@[simp] theorem Block.latch_fDlc (b : Block) (m : BitVec 1) (l : BitVec 8) (c : Cells) : (b.latch m l c).fDlc = 0#4 := rfl
@[simp] theorem Block.latch_fData (b : Block) (m : BitVec 1) (l : BitVec 8) (c : Cells) : (b.latch m l c).fData = 0#120 := rfl
@[simp] theorem Block.latch_fCrc (b : Block) (m : BitVec 1) (l : BitVec 8) (c : Cells) : (b.latch m l c).fCrc = 0#15 := rfl
@[simp] theorem Block.latch_fCrcd (b : Block) (m : BitVec 1) (l : BitVec 8) (c : Cells) : (b.latch m l c).fCrcd = 0#1 := rfl
@[simp] theorem Block.latch_fAck (b : Block) (m : BitVec 1) (l : BitVec 8) (c : Cells) : (b.latch m l c).fAck = 0#1 := rfl
@[simp] theorem Block.latch_fAckd (b : Block) (m : BitVec 1) (l : BitVec 8) (c : Cells) : (b.latch m l c).fAckd = 0#1 := rfl
@[simp] theorem Block.latch_fEof (b : Block) (m : BitVec 1) (l : BitVec 8) (c : Cells) : (b.latch m l c).fEof = 0#7 := rfl
@[simp] theorem Block.latch_fIfs (b : Block) (m : BitVec 1) (l : BitVec 8) (c : Cells) : (b.latch m l c).fIfs = 0#3 := rfl
@[simp] theorem Block.latch_sensor (b : Block) (m : BitVec 1) (l : BitVec 8) (c : Cells) : (b.latch m l c).sensor = 0#3 := rfl
@[simp] theorem Block.latch_errKind (b : Block) (m : BitVec 1) (l : BitVec 8) (c : Cells) : (b.latch m l c).errKind = 0#3 := rfl
@[simp] theorem Block.latch_errA (b : Block) (m : BitVec 1) (l : BitVec 8) (c : Cells) : (b.latch m l c).errA = 0#16 := rfl
@[simp] theorem Block.latch_errB (b : Block) (m : BitVec 1) (l : BitVec 8) (c : Cells) : (b.latch m l c).errB = 0#8 := rfl
@[simp] theorem Block.latch_ovr (b : Block) (m : BitVec 1) (l : BitVec 8) (c : Cells) : (b.latch m l c).ovr = 0#1 := rfl

@[simp] theorem State.setBlock_block (s : State) (b : Block) : (s.setBlock b).block = b := rfl
@[simp] theorem State.setBlock_sensorMap (s : State) (b : Block) : (s.setBlock b).sensorMap = s.sensorMap := rfl
@[simp] theorem State.setBlock_program (s : State) (b : Block) : (s.setBlock b).program = s.program := rfl
@[simp] theorem State.setBlock_turns (s : State) (b : Block) : (s.setBlock b).turns = s.turns := rfl
@[simp] theorem State.setBlock_norm (s : State) (b : Block) : (s.setBlock b).norm = s.norm := rfl
@[simp] theorem State.setBlock_taken (s : State) (b : Block) : (s.setBlock b).taken = s.taken := rfl
@[simp] theorem State.setBlock_returned (s : State) (b : Block) : (s.setBlock b).returned = s.returned := rfl

@[simp] theorem State.setTaken_block (s : State) (v : CursorValue) : (s.setTaken v).block = s.block := rfl
@[simp] theorem State.setTaken_sensorMap (s : State) (v : CursorValue) : (s.setTaken v).sensorMap = s.sensorMap := rfl
@[simp] theorem State.setTaken_program (s : State) (v : CursorValue) : (s.setTaken v).program = s.program := rfl
@[simp] theorem State.setTaken_turns (s : State) (v : CursorValue) : (s.setTaken v).turns = s.turns := rfl
@[simp] theorem State.setTaken_norm (s : State) (v : CursorValue) : (s.setTaken v).norm = s.norm := rfl
@[simp] theorem State.setTaken_taken (s : State) (v : CursorValue) : (s.setTaken v).taken = some v := rfl
@[simp] theorem State.setTaken_returned (s : State) (v : CursorValue) : (s.setTaken v).returned = s.returned := rfl

@[simp] theorem State.setNorm_block (s : State) (r : NormResult) : (s.setNorm r).block = s.block := rfl
@[simp] theorem State.setNorm_sensorMap (s : State) (r : NormResult) : (s.setNorm r).sensorMap = s.sensorMap := rfl
@[simp] theorem State.setNorm_program (s : State) (r : NormResult) : (s.setNorm r).program = s.program := rfl
@[simp] theorem State.setNorm_turns (s : State) (r : NormResult) : (s.setNorm r).turns = s.turns := rfl
@[simp] theorem State.setNorm_norm (s : State) (r : NormResult) : (s.setNorm r).norm = some r := rfl
@[simp] theorem State.setNorm_taken (s : State) (r : NormResult) : (s.setNorm r).taken = s.taken := rfl
@[simp] theorem State.setNorm_returned (s : State) (r : NormResult) : (s.setNorm r).returned = s.returned := rfl

@[simp] theorem State.setProgram_block (s : State) (p : List HostOp) : (s.setProgram p).block = s.block := rfl
@[simp] theorem State.setProgram_sensorMap (s : State) (p : List HostOp) : (s.setProgram p).sensorMap = s.sensorMap := rfl
@[simp] theorem State.setProgram_program (s : State) (p : List HostOp) : (s.setProgram p).program = p := rfl
@[simp] theorem State.setProgram_turns (s : State) (p : List HostOp) : (s.setProgram p).turns = s.turns := rfl
@[simp] theorem State.setProgram_norm (s : State) (p : List HostOp) : (s.setProgram p).norm = s.norm := rfl
@[simp] theorem State.setProgram_taken (s : State) (p : List HostOp) : (s.setProgram p).taken = s.taken := rfl
@[simp] theorem State.setProgram_returned (s : State) (p : List HostOp) : (s.setProgram p).returned = s.returned := rfl

@[simp] theorem State.setTurns_block (s : State) (t : List Turn) : (s.setTurns t).block = s.block := rfl
@[simp] theorem State.setTurns_sensorMap (s : State) (t : List Turn) : (s.setTurns t).sensorMap = s.sensorMap := rfl
@[simp] theorem State.setTurns_program (s : State) (t : List Turn) : (s.setTurns t).program = s.program := rfl
@[simp] theorem State.setTurns_turns (s : State) (t : List Turn) : (s.setTurns t).turns = t := rfl
@[simp] theorem State.setTurns_norm (s : State) (t : List Turn) : (s.setTurns t).norm = s.norm := rfl
@[simp] theorem State.setTurns_taken (s : State) (t : List Turn) : (s.setTurns t).taken = s.taken := rfl
@[simp] theorem State.setTurns_returned (s : State) (t : List Turn) : (s.setTurns t).returned = s.returned := rfl

@[simp] theorem State.finishCall_block (s : State) (r : CallResult) (p : List HostOp) : (s.finishCall r p).block = s.block := rfl
@[simp] theorem State.finishCall_sensorMap (s : State) (r : CallResult) (p : List HostOp) : (s.finishCall r p).sensorMap = s.sensorMap := rfl
@[simp] theorem State.finishCall_program (s : State) (r : CallResult) (p : List HostOp) : (s.finishCall r p).program = p := rfl
@[simp] theorem State.finishCall_turns (s : State) (r : CallResult) (p : List HostOp) : (s.finishCall r p).turns = s.turns := rfl
@[simp] theorem State.finishCall_norm (s : State) (r : CallResult) (p : List HostOp) : (s.finishCall r p).norm = s.norm := rfl
@[simp] theorem State.finishCall_taken (s : State) (r : CallResult) (p : List HostOp) : (s.finishCall r p).taken = s.taken := rfl
@[simp] theorem State.finishCall_returned (s : State) (r : CallResult) (p : List HostOp) : (s.finishCall r p).returned = some r := rfl

end Sys2Proof.Machine
end

