-- ==== Sys2Proof/Laws/Ops.lean ====
section
/-! SUPPORT. What the shared operations can do, once each: the values of bit sequences, the cells of the buffer, the
cursor, and the field-reading micro-step. -/

namespace Sys2Proof.Machine

/-! Bit sequences and cells. -/

@[simp] theorem uint_nil : uint [] = 0 := rfl

@[simp] theorem uint_cons (b : Bool) (s : BitSeq) : uint (b :: s) = b.toNat * 2 ^ s.length + uint s := rfl

theorem uint_lt (s : BitSeq) : uint s < 2 ^ s.length := by
  induction s with
  | nil => simp
  | cons b s ih =>
    simp only [uint_cons, List.length_cons, pow_succ]
    cases b <;> simp <;> omega

theorem uint_append (s t : BitSeq) : uint (s ++ t) = uint s * 2 ^ t.length + uint t := by
  induction s with
  | nil => simp
  | cons b s ih => simp only [List.cons_append, uint_cons, ih, List.length_append, pow_add]; ring

/-- Element `k` of a sequence is bit `length - 1 - k` of its value (rules R10, R63). -/
theorem uint_testBit (s : BitSeq) (k : Nat) (h : k < s.length) : (uint s).testBit (s.length - 1 - k) = s[k] := by
  induction s generalizing k with
  | nil => simp at h
  | cons b s ih =>
    have hlt := uint_lt s
    rw [uint_cons, Nat.mul_comm, List.length_cons, Nat.add_sub_cancel]
    cases k with
    | zero =>
      rw [Nat.sub_zero, Nat.testBit_two_pow_mul_add _ hlt]
      cases b <;> simp
    | succ k =>
      have hk : k < s.length := by simpa using h
      rw [Nat.testBit_two_pow_mul_add _ hlt, if_pos (by omega)]
      simpa [show s.length - (k + 1) = s.length - 1 - k by omega] using ih k hk

/-- A value is fixed by its width and its bits. -/
theorem eq_uint_of_testBit (s : BitSeq) (v : Nat) (hv : v < 2 ^ s.length)
    (h : ∀ k (hk : k < s.length), v.testBit (s.length - 1 - k) = s[k]) : v = uint s := by
  apply Nat.eq_of_testBit_eq
  intro i
  by_cases hi : i < s.length
  · have hk : s.length - 1 - i < s.length := by omega
    have h1 := h (s.length - 1 - i) hk
    have h2 := uint_testBit s (s.length - 1 - i) hk
    rw [show s.length - 1 - (s.length - 1 - i) = i by omega] at h1 h2
    rw [h1, h2]
  · have hpow : 2 ^ s.length ≤ 2 ^ i := Nat.pow_le_pow_right (by norm_num) (by omega)
    rw [Nat.testBit_lt_two_pow (hv.trans_le hpow), Nat.testBit_lt_two_pow ((uint_lt s).trans_le hpow)]

@[simp] theorem slice_zero (buf : Cells) (p : Nat) : slice buf p 0 = [] := rfl

@[simp] theorem slice_succ (buf : Cells) (p n : Nat) :
    slice buf p (n + 1) = buf.getLsbD p :: slice buf (p + 1) n := rfl

@[simp] theorem slice_length (buf : Cells) (p n : Nat) : (slice buf p n).length = n := by
  induction n generalizing p with
  | zero => rfl
  | succ n ih => simp [ih]

theorem slice_getElem (buf : Cells) (p n k : Nat) (h : k < (slice buf p n).length) :
    (slice buf p n)[k] = buf.getLsbD (p + k) := by
  induction n generalizing p k with
  | zero => simp at h
  | succ n ih =>
    cases k with
    | zero => simp
    | succ k => simpa [Nat.add_assoc, Nat.add_comm 1 k] using ih (p + 1) k (by simpa using h)

theorem slice_append (buf : Cells) (p m n : Nat) : slice buf p (m + n) = slice buf p m ++ slice buf (p + m) n := by
  induction m generalizing p with
  | zero => simp
  | succ m ih => rw [Nat.add_right_comm, slice_succ, ih]; simp [Nat.add_assoc, Nat.add_comm 1 m]

/-- Cells below the length, cut out of the sequence they hold. -/
theorem slice_eq_drop_take (buf : Cells) (p n len : Nat) (h : p + n ≤ len) :
    slice buf p n = ((slice buf 0 len).drop p).take n := by
  apply List.ext_getElem
  · simp; omega
  · intro k h1 h2
    simp [slice_getElem]

theorem uint_slice_lt (buf : Cells) (p n : Nat) : uint (slice buf p n) < 2 ^ n := by
  simpa using uint_lt (slice buf p n)

/-- One cell as a value. -/
theorem uint_slice_one (buf : Cells) (p : Nat) : uint (slice buf p 1) = (buf.getLsbD p).toNat := by simp

/-! The cursor. -/

/-- All a read of cells can do (rules R60, R61). -/
theorem readCells_cases (b : Block) (p n : Nat) :
    (p + n ≤ b.len.toNat ∧ p + n ≤ Config.maxBits ∧ readCells b p n = .ok (slice b.buf p n)) ∨
    (b.len.toNat < p + n ∧ readCells b p n = .error .pastSequence) ∨
    (p + n ≤ b.len.toNat ∧ Config.maxBits < p + n ∧ readCells b p n = .error .noSuchCell) := by
  by_cases h : b.len.toNat < p + n
  · exact .inr (.inl ⟨h, by simp [readCells, h]⟩)
  by_cases hr : p + n ≤ Config.maxBits
  · exact .inl ⟨Nat.not_lt.mp h, hr, by simp [readCells, h, hr]⟩
  · exact .inr (.inr ⟨Nat.not_lt.mp h, Nat.not_le.mp hr, by simp [readCells, h, hr]⟩)

/-- `MemRead` outside the sequence has no value (rule R60; the fault is notes/assumptions/8.md). -/
theorem memRead_pastSequence {b : Block} {p n : Nat} (h : b.len.toNat < p + n) :
    memRead b p n = .error .pastSequence := by simp [memRead, readCells, h, Except.map]

theorem take_enough {b : Block} {n : Nat} (h : b.pos.toNat ≤ b.len.toNat ∧ b.len.toNat ≤ Config.maxBits)
    (hn : n ≤ remaining b) : take n b = .ok (slice b.buf b.pos.toNat n) (b.advance n) := by
  have hread : b.pos.toNat + n ≤ Config.maxBits := by have := h.2; unfold remaining at hn; omega
  have hlen : b.pos.toNat + n ≤ b.len.toNat := by have := h.1; unfold remaining at hn; omega
  simp [take, readCells, Nat.not_lt.mpr h.1, Nat.not_lt.mpr hn, hread, Nat.not_lt.mpr hlen]

theorem take_short {b : Block} {n : Nat} (h : b.pos.toNat ≤ b.len.toNat) (hn : remaining b < n) :
    take n b = .raised (b.raise (.insufficientBits n (remaining b))) := by
  simp [take, Nat.not_lt.mpr h, hn]

theorem takeUint_enough {b : Block} {n : Nat} (h : b.pos.toNat ≤ b.len.toNat ∧ b.len.toNat ≤ Config.maxBits)
    (hn : n ≤ remaining b) : takeUint n b = .ok (uint (slice b.buf b.pos.toNat n)) (b.advance n) := by
  simp [takeUint, take_enough h hn]

theorem takeUint_short {b : Block} {n : Nat} (h : b.pos.toNat ≤ b.len.toNat) (hn : remaining b < n) :
    takeUint n b = .raised (b.raise (.insufficientBits n (remaining b))) := by
  simp [takeUint, take_short h hn]

/-- All TAKE can do. -/
theorem take_cases (n : Nat) (b : Block) :
    (b.pos.toNat ≤ b.len.toNat ∧ n ≤ remaining b ∧ b.pos.toNat + n ≤ Config.maxBits ∧
      take n b = .ok (slice b.buf b.pos.toNat n) (b.advance n)) ∨
    (b.pos.toNat ≤ b.len.toNat ∧ remaining b < n ∧
      take n b = .raised (b.raise (.insufficientBits n (remaining b)))) ∨
    (b.len.toNat < b.pos.toNat ∧ take n b = .fault .cursorPastLength) ∨
    (Config.maxBits < b.pos.toNat + n ∧ take n b = .fault .noSuchCell) := by
  by_cases h : b.len.toNat < b.pos.toNat
  · simp [take, h]
  by_cases hn : remaining b < n
  · exact .inr (.inl ⟨Nat.not_lt.mp h, hn, take_short (Nat.not_lt.mp h) hn⟩)
  have hlen : ¬ b.len.toNat < b.pos.toNat + n := by unfold remaining at hn; omega
  by_cases hr : b.pos.toNat + n ≤ Config.maxBits
  · exact .inl ⟨Nat.not_lt.mp h, Nat.not_lt.mp hn, hr, by simp [take, readCells, h, hn, hr, hlen]⟩
  · exact .inr (.inr (.inr ⟨Nat.not_le.mp hr, by simp [take, readCells, h, hn, hr, hlen]⟩))

/-- All TAKE_UINT can do. -/
theorem takeUint_cases (n : Nat) (b : Block) :
    (b.pos.toNat ≤ b.len.toNat ∧ n ≤ remaining b ∧ b.pos.toNat + n ≤ Config.maxBits ∧
      takeUint n b = .ok (uint (slice b.buf b.pos.toNat n)) (b.advance n)) ∨
    (b.pos.toNat ≤ b.len.toNat ∧ remaining b < n ∧
      takeUint n b = .raised (b.raise (.insufficientBits n (remaining b)))) ∨
    (b.len.toNat < b.pos.toNat ∧ takeUint n b = .fault .cursorPastLength) ∨
    (Config.maxBits < b.pos.toNat + n ∧ takeUint n b = .fault .noSuchCell) := by
  obtain ⟨h, hn, hr, ht⟩ | ⟨h, hn, ht⟩ | ⟨h, ht⟩ | ⟨h, ht⟩ := take_cases n b <;> simp [takeUint, *]

/-- Where the cursor stands after a read that stays inside the sequence. -/
theorem advance_pos_toNat {b : Block} {n : Nat} (h : b.pos.toNat ≤ b.len.toNat) (hn : n ≤ remaining b) :
    (b.advance n).pos.toNat = b.pos.toNat + n := by
  have hlen := b.len.isLt
  unfold remaining at hn
  simp only [Block.advance_pos, BitVec.toNat_ofNat]
  omega

/-! The field-reading micro-step. -/

theorem fieldStep_enough {s : State} {n : Nat} (w : Nat → Block → Block)
    (h : s.block.pos.toNat ≤ s.block.len.toNat ∧ s.block.len.toNat ≤ Config.maxBits) (hn : n ≤ remaining s.block) :
    fieldStep n w s =
      .next (s.setBlock (w (uint (slice s.block.buf s.block.pos.toNat n)) (s.block.advance n))) := by
  simp [fieldStep, takeUint_enough h hn]

theorem fieldStep_short {s : State} {n : Nat} (w : Nat → Block → Block)
    (h : s.block.pos.toNat ≤ s.block.len.toNat) (hn : remaining s.block < n) :
    fieldStep n w s = .next (s.setBlock (s.block.raise (.insufficientBits n (remaining s.block)))) := by
  simp [fieldStep, takeUint_short h hn]

/-- All a field-reading micro-step that goes on can have done: the read and the field's own write, or error entry. -/
theorem fieldStep_next {s t : State} {n : Nat} {w : Nat → Block → Block} (h : fieldStep n w s = .next t) :
    (s.block.pos.toNat ≤ s.block.len.toNat ∧ n ≤ remaining s.block ∧
      t = s.setBlock (w (uint (slice s.block.buf s.block.pos.toNat n)) (s.block.advance n))) ∨
    (s.block.pos.toNat ≤ s.block.len.toNat ∧ remaining s.block < n ∧
      t = s.setBlock (s.block.raise (.insufficientBits n (remaining s.block)))) := by
  obtain ⟨hp, hn, _, ht⟩ | ⟨hp, hn, ht⟩ | ⟨_, ht⟩ | ⟨_, ht⟩ := takeUint_cases n s.block
  · rw [fieldStep, ht] at h
    exact .inl ⟨hp, hn, (Host.Outcome.next.inj h).symm⟩
  · rw [fieldStep, ht] at h
    exact .inr ⟨hp, hn, (Host.Outcome.next.inj h).symm⟩
  · simp [fieldStep, ht] at h
  · simp [fieldStep, ht] at h

/-- A field-reading micro-step is never refused. -/
theorem fieldStep_not_refused {s : State} {n : Nat} {w : Nat → Block → Block} (r : Refusal) :
    fieldStep n w s ≠ .refused r := by
  obtain ⟨_, _, _, ht⟩ | ⟨_, _, ht⟩ | ⟨_, ht⟩ | ⟨_, ht⟩ := takeUint_cases n s.block <;> simp [fieldStep, ht]

/-! The host commands. -/

/-- All a decode command can do to the block (rules R212 to R214). -/
theorem startDecode_cases (m : BitVec 1) (l : BitVec 8) (c : Cells) (b : Block) :
    (b.quiescent = true ∧ l.toNat ≤ Config.maxBits ∧ startDecode m l c b = (b.latch m l c).goto Fsm.sof) ∨
    (b.quiescent = true ∧ Config.maxBits < l.toNat ∧
      startDecode m l c b = (b.latch m l c).raise (.frameTooLong l.toNat)) ∨
    (b.quiescent = false ∧ startDecode m l c b = b.reject) := by
  cases hq : b.quiescent
  · simp [startDecode, hq]
  · by_cases hl : Config.maxBits < l.toNat
    · exact .inr (.inl ⟨rfl, hl, by simp [startDecode, hq, hl]⟩)
    · exact .inl ⟨rfl, Nat.not_lt.mp hl, by simp [startDecode, hq, Nat.not_lt.mp hl]⟩

end Sys2Proof.Machine
end

