-- ==== Sys2Proof/Laws/Bits.lean ====
section
/-! SUPPORT. Bit sequences made from numbers and numbers made from bit sequences, the ports, and the reading of a
field as the statements speak of it. -/

namespace Sys2Proof.Machine

/-- Two sequences of one length and one value are the same. -/
theorem uint_inj {s t : BitSeq} (hl : s.length = t.length) (h : uint s = uint t) : s = t := by
  apply List.ext_getElem hl
  intro k h1 h2
  rw [← uint_testBit s k h1, ← uint_testBit t k h2, h, hl]

@[simp] theorem lowBits_length (v k : Nat) : (lowBits v k).length = k := by
  induction k with
  | zero => rfl
  | succ k ih => simp [lowBits, ih]

theorem uint_lowBits (v k : Nat) : uint (lowBits v k) = v % 2 ^ k := by
  induction k with
  | zero => simp [lowBits, Nat.mod_one]
  | succ k ih =>
    rw [lowBits, uint_cons, lowBits_length, ih, Nat.mod_pow_succ, Nat.testBit_eq_decide_div_mod_eq]
    rcases Nat.mod_two_eq_zero_or_one (v / 2 ^ k) with h | h <;> simp [h]
    omega

theorem minbin_pos {v : Nat} (h : v ≠ 0) : minbin v = lowBits v (Nat.log2 v + 1) := by simp [minbin, h]

theorem packCells_testBit (bits : BitSeq) (i : Nat) : (packCells bits).testBit i = bits.getD i false := by
  induction bits generalizing i with
  | nil => simp [packCells]
  | cons b s ih =>
    cases i with
    | zero => cases b <;> simp [packCells, Nat.testBit_zero]
    | succ i =>
      rw [packCells, Nat.testBit_succ, show (b.toNat + 2 * packCells s) / 2 = packCells s by cases b <;> simp; omega, ih]
      simp

/-- All the length check can do (rule R126). -/
theorem checkLength_cases (bits : BitSeq) :
    (bits.length ≤ Config.maxBits ∧ checkLength bits = .ok bits) ∨
    (Config.maxBits < bits.length ∧ checkLength bits = .frameTooLong bits.length) := by
  by_cases h : Config.maxBits < bits.length
  · exact .inr ⟨h, by simp [checkLength, h]⟩
  · exact .inl ⟨Nat.not_lt.mp h, by simp [checkLength, Nat.not_lt.mp h]⟩

/-- The cells a read gives are the field at the cursor. -/
theorem fieldAt_slice (b : Block) (n : Nat) : b.FieldAt n (uint (slice b.buf b.pos.toNat n)) := by
  refine ⟨uint_slice_lt _ _ _, fun k hk => ?_⟩
  have h := uint_testBit (slice b.buf b.pos.toNat n) k (by simpa)
  simpa [slice_getElem] using h

theorem advance_eq (b : Block) (n : Nat) : b.advance n = { b with pos := b.pos + BitVec.ofNat 8 n } := by
  simp [Block.advance, BitVec.ofNat_add]

theorem raise_insufficientBits (b : Block) (n : Nat) :
    b.raise (.insufficientBits n (remaining b)) = b.shortOf n := rfl

end Sys2Proof.Machine
end

