-- ==== Sys2Proof/Laws/PerInstr.lean ====
section
/-! SUPPORT. What holds of every instruction as it is written: its word lies in its own row of the opcode table. -/

namespace Sys2Proof.Laws.RowWord

/-- The word of the instruction has the format of its row and matches the row's mask and pattern (rule R101). -/
def Statement (i : Instr) : Prop :=
  (encode i).format = (tableRow i).format ∧ (encode i).bits &&& (tableRow i).mask = (tableRow i).pattern

theorem nop : Statement .nop := ⟨rfl, rfl⟩
theorem decode (i : BitVec 8) (c : Cells) : Statement (.decode i c) := ⟨rfl, by simp [encode, CodeWord.bits, tableRow]⟩
theorem decodeFull (i : BitVec 8) (c : Cells) : Statement (.decodeFull i c) := ⟨rfl, by simp [encode, CodeWord.bits, tableRow]⟩
theorem reservedCmd : Statement .reservedCmd := ⟨rfl, rfl⟩
theorem normText (s : List Char) : Statement (.normText s) := ⟨rfl, by simp [encode, CodeWord.bits, tableRow]⟩
theorem normBytes (b : List Byte) : Statement (.normBytes b) := ⟨rfl, by simp [encode, CodeWord.bits, tableRow]⟩
theorem normInt (v : Int) : Statement (.normInt v) := ⟨rfl, by simp [encode, CodeWord.bits, tableRow]⟩
theorem take (n : Nat) : Statement (.take n) := by
  have h : ∀ x : BitVec 7, (0#1 ++ x).toNat &&& 0x80 = 0x0 := by decide
  exact ⟨rfl, h _⟩
theorem takeUint (n : Nat) : Statement (.takeUint n) := by
  have h : ∀ x : BitVec 7, (1#1 ++ x).toNat &&& 0x80 = 0x80 := by decide
  exact ⟨rfl, h _⟩
theorem sIdle : Statement .sIdle := ⟨rfl, rfl⟩
theorem sSof : Statement .sSof := ⟨rfl, rfl⟩
theorem sArbId : Statement .sArbId := ⟨rfl, rfl⟩
theorem sClassify : Statement .sClassify := ⟨rfl, rfl⟩
theorem sRtr : Statement .sRtr := ⟨rfl, rfl⟩
theorem sIde : Statement .sIde := ⟨rfl, rfl⟩
theorem sSrr : Statement .sSrr := ⟨rfl, rfl⟩
theorem sExtId : Statement .sExtId := ⟨rfl, rfl⟩
theorem sRtr2 : Statement .sRtr2 := ⟨rfl, rfl⟩
theorem sReserved : Statement .sReserved := ⟨rfl, rfl⟩
theorem sDlc : Statement .sDlc := ⟨rfl, rfl⟩
theorem sData : Statement .sData := ⟨rfl, rfl⟩
theorem sCrc : Statement .sCrc := ⟨rfl, rfl⟩
theorem sCrcDel : Statement .sCrcDel := ⟨rfl, rfl⟩
theorem sAck : Statement .sAck := ⟨rfl, rfl⟩
theorem sAckDel : Statement .sAckDel := ⟨rfl, rfl⟩
theorem sEof : Statement .sEof := ⟨rfl, rfl⟩
theorem sIfs : Statement .sIfs := ⟨rfl, rfl⟩
theorem sDone : Statement .sDone := ⟨rfl, rfl⟩
theorem sError : Statement .sError := ⟨rfl, rfl⟩

end Sys2Proof.Laws.RowWord
end

