-- ==== Sys2Proof/Laws/Step.lean ====
section
/-! SUPPORT. All that a move and a step can be, once each. -/

namespace Sys2Proof.Machine

/-- All the host's move can be (rules R210, R218): a command or a message, or a library call that returns, or a call that
collects from a block whose registers name no result. -/
theorem hostMove_cases (s : State) :
    (∃ w p, hostMove s = .run w (s.setProgram p) ∧ (w.format = .hostCmd ∨ w.format = .inputShape)) ∨
    (∃ rest, hostMove s = .done (s.setProgram rest)) ∨
    (∃ r rest, hostMove s = .done (s.finishCall r rest)) ∨
    (hostMove s = .refused .doneWithoutSensor ∧ s.block.doneFlag = 1#1 ∧ sensorOf s.block.resSensor = none) ∨
    (hostMove s = .refused .errorWithoutKind ∧ s.block.errFlag = 1#1 ∧
      errorOf s.block.errKind s.block.errA s.block.errB = none) := by
  have self : ∀ w, Fetched.run w s = .run w (s.setProgram s.program) := fun _ => rfl
  unfold hostMove
  split
  · exact .inl ⟨_, _, self _, .inl rfl⟩
  · exact .inl ⟨_, _, rfl, .inl rfl⟩
  · exact .inl ⟨_, _, rfl, .inr rfl⟩
  · exact .inl ⟨_, _, rfl, .inr rfl⟩
  · unfold issueMove
    split
    · exact .inr (.inl ⟨_, rfl⟩)
    · exact .inr (.inr (.inl ⟨_, _, rfl⟩))
    · exact .inr (.inr (.inl ⟨_, _, rfl⟩))
    · split
      · exact .inl ⟨_, _, rfl, .inl rfl⟩
      · exact .inl ⟨_, _, self _, .inl rfl⟩
  · unfold collectMove
    split
    · split
      · exact .inr (.inr (.inl ⟨_, _, rfl⟩))
      · rename_i hd _ hr
        refine .inr (.inr (.inr (.inl ⟨rfl, hd, ?_⟩)))
        unfold okResult at hr
        split at hr
        · assumption
        · cases hr
    · split
      · split
        · exact .inr (.inr (.inl ⟨_, _, rfl⟩))
        · rename_i he _ hr
          exact .inr (.inr (.inr (.inr ⟨rfl, he, hr⟩)))
      · exact .inl ⟨_, _, self _, .inl rfl⟩

/-- The host's move leaves the block, the table and the schedule alone. -/
theorem hostMove_run {s s' : State} {w : CodeWord} (h : hostMove s = .run w s') :
    s'.block = s.block ∧ s'.sensorMap = s.sensorMap ∧ s'.turns = s.turns ∧
      (w.format = .hostCmd ∨ w.format = .inputShape) := by
  obtain ⟨_, _, e, hf⟩ | ⟨_, e⟩ | ⟨_, _, e⟩ | ⟨e, _⟩ | ⟨e, _⟩ := hostMove_cases s <;> rw [e] at h <;> cases h
  exact ⟨rfl, rfl, rfl, hf⟩

theorem hostMove_done {s t : State} (h : hostMove s = .done t) :
    t.block = s.block ∧ t.sensorMap = s.sensorMap ∧ t.turns = s.turns := by
  obtain ⟨_, _, e, _⟩ | ⟨_, e⟩ | ⟨_, _, e⟩ | ⟨e, _⟩ | ⟨e, _⟩ := hostMove_cases s <;> rw [e] at h <;> cases h <;>
    exact ⟨rfl, rfl, rfl⟩

/-- A fetch answers a move only where no register holds a reserved value. -/
theorem fetch_eq_move {s : State} (h : s.block.reservedValue = none) : fetch s = move s := by simp [fetch, h]

theorem fetch_eq_refused {s : State} {r : Refusal} (h : s.block.reservedValue = some r) : fetch s = .refused r := by
  simp [fetch, h]

/-- All a step that answers a next state can have done: run a decoded instruction, give the host `MalformedInput` for the
reserved shape tag, or make a move that runs none. -/
theorem step_next {s t : State} (h : step s = .next t) :
    s.block.reservedValue = none ∧
    ((∃ w s' i, move s = .run w s' ∧ decode w = .ok i ∧ exec i s' = .next t) ∨
      (∃ w s', move s = .run w s' ∧ decode w = .error .reservedShape ∧ t = s'.setNorm .malformedInput) ∨
      move s = .done t) := by
  cases hr : s.block.reservedValue with
  | some r => simp [step, fetch_eq_refused hr] at h
  | none =>
    refine ⟨rfl, ?_⟩
    unfold step at h
    rw [fetch_eq_move hr] at h
    cases hm : move s with
    | run w s' =>
      rw [hm] at h
      cases hd : decode w with
      | ok i => simp only [hd] at h; exact .inl ⟨w, s', i, rfl, hd, h⟩
      | error r =>
        simp only [hd] at h
        cases r with
        | reservedShape => exact .inr (.inl ⟨w, s', rfl, hd, (Host.Outcome.next.inj h).symm⟩)
        | reservedState c => cases h
    | done t' => rw [hm] at h; cases h; exact .inr (.inr rfl)
    | refused r => rw [hm] at h; cases h

/-- What a move that runs a word leaves alone, and where the word comes from (rule R6). -/
theorem move_run {s s' : State} {w : CodeWord} (h : move s = .run w s') :
    s'.block = s.block ∧ s'.sensorMap = s.sensorMap ∧ s'.turns = s.turns.tail ∧
    (w.format = .hostCmd ∨ w.format = .inputShape ∨ w = .fsmState s.block.state ∨
      ∃ c, w = .cursorOp c ∧ .cursor c ∈ s.turns) := by
  unfold move at h
  split at h
  · rename_i ht
    split at h
    · cases h; exact ⟨rfl, rfl, by rw [ht]; rfl, .inr (.inr (.inl rfl))⟩
    · obtain ⟨hb, hm, hts, hf⟩ := hostMove_run h
      exact ⟨hb, hm, by rw [hts, ht]; rfl, hf.imp_right .inl⟩
  · rename_i ht
    obtain ⟨hb, hm, hts, hf⟩ := hostMove_run h
    exact ⟨hb, hm, by rw [hts, ht]; rfl, hf.imp_right .inl⟩
  · rename_i ht; cases h; exact ⟨rfl, rfl, by rw [ht]; rfl, .inr (.inr (.inl rfl))⟩
  · cases h
  · rename_i ht; cases h; exact ⟨rfl, rfl, by rw [ht]; rfl, .inr (.inr (.inr ⟨_, rfl, by rw [ht]; simp⟩))⟩

/-- What a move that runs no word can do: reset the block, or advance the host's program. -/
theorem move_done {s t : State} (h : move s = .done t) :
    (t.block = s.block ∨ t.block = Block.reset) ∧ t.sensorMap = s.sensorMap ∧ t.turns = s.turns.tail := by
  unfold move at h
  split at h
  · rename_i ht
    split at h
    · cases h
    · obtain ⟨hb, hm, hts⟩ := hostMove_done h
      exact ⟨.inl hb, hm, by rw [hts, ht]; rfl⟩
  · rename_i ht
    obtain ⟨hb, hm, hts⟩ := hostMove_done h
    exact ⟨.inl hb, hm, by rw [hts, ht]; rfl⟩
  · cases h
  · rename_i ht; cases h; exact ⟨.inr rfl, rfl, by rw [ht]; rfl⟩
  · cases h

end Sys2Proof.Machine
end

