-- ==== Sys2Proof/Tests/Slice0.lean ====
section
/-! SUPPORT. The model's own tests: ill-formed terms, words written out from the spec's encodings, single steps with
the results of 95_test_vectors.md, and for each obligation with hypotheses a state that meets them. -/

namespace Sys2Proof.Tests

open Sys2Proof.Machine

-- The kernel evaluates these theorems; one after another they stay within the memory that threads would exceed.
set_option Elab.async false

/-! ## Ill-formed terms (rule R91) -/

theorem test_take_128_is_ill_formed : (Instr.take 128).wellFormed = false := by decide +kernel
theorem test_take_uint_128_is_ill_formed : (Instr.takeUint 128).wellFormed = false := by decide +kernel
theorem test_take_127_is_well_formed : (Instr.take 127).wellFormed = true := by decide +kernel
theorem test_take_uint_0_is_well_formed : (Instr.takeUint 0).wellFormed = true := by decide +kernel

/-! ## Words from rules R90 to R93, one a row -/

/-- A message whose three operands all differ. -/
def message : RawOperands := { text := ['0', '1'], bytes := [0x30#8], int := -5 }

theorem test_decode_host_commands :
    decode (.hostCmd 0b00#2 9#8 3#130) = .ok .nop ∧ decode (.hostCmd 0b01#2 9#8 3#130) = .ok (.decode 9#8 3#130) ∧
    decode (.hostCmd 0b10#2 9#8 3#130) = .ok (.decodeFull 9#8 3#130) ∧
    decode (.hostCmd 0b11#2 9#8 3#130) = .ok .reservedCmd := by decide +kernel

theorem test_decode_input_shapes :
    decode (.inputShape 0b00#2 message) = .ok (.normText ['0', '1']) ∧
    decode (.inputShape 0b01#2 message) = .ok (.normBytes [0x30#8]) ∧
    decode (.inputShape 0b10#2 message) = .ok (.normInt (-5)) ∧
    decode (.inputShape 0b11#2 message) = .error .reservedShape := by decide +kernel

theorem test_decode_cursor_words :
    decode (.cursorOp 0b00000000#8) = .ok (.take 0) ∧ decode (.cursorOp 0b01111111#8) = .ok (.take 127) ∧
    decode (.cursorOp 0b10001011#8) = .ok (.takeUint 11) ∧ decode (.cursorOp 0b11111111#8) = .ok (.takeUint 127) := by
  decide +kernel

theorem test_decode_states_0_to_9 :
    decode (.fsmState 0b00000#5) = .ok .sIdle ∧ decode (.fsmState 0b00001#5) = .ok .sSof ∧
    decode (.fsmState 0b00010#5) = .ok .sArbId ∧ decode (.fsmState 0b00011#5) = .ok .sClassify ∧
    decode (.fsmState 0b00100#5) = .ok .sRtr ∧ decode (.fsmState 0b00101#5) = .ok .sIde ∧
    decode (.fsmState 0b00110#5) = .ok .sSrr ∧ decode (.fsmState 0b00111#5) = .ok .sExtId ∧
    decode (.fsmState 0b01000#5) = .ok .sRtr2 ∧ decode (.fsmState 0b01001#5) = .ok .sReserved := by decide +kernel

theorem test_decode_states_10_to_19 :
    decode (.fsmState 0b01010#5) = .ok .sDlc ∧ decode (.fsmState 0b01011#5) = .ok .sData ∧
    decode (.fsmState 0b01100#5) = .ok .sCrc ∧ decode (.fsmState 0b01101#5) = .ok .sCrcDel ∧
    decode (.fsmState 0b01110#5) = .ok .sAck ∧ decode (.fsmState 0b01111#5) = .ok .sAckDel ∧
    decode (.fsmState 0b10000#5) = .ok .sEof ∧ decode (.fsmState 0b10001#5) = .ok .sIfs ∧
    decode (.fsmState 0b10010#5) = .ok .sDone ∧ decode (.fsmState 0b10011#5) = .ok .sError := by decide +kernel

theorem test_reserved_states_do_not_decode :
    decode (.fsmState 20#5) = .error (.reservedState 20#5) ∧ decode (.fsmState 31#5) = .error (.reservedState 31#5) := by
  decide +kernel

theorem test_encode_cursor_words :
    encode (.take 11) = .cursorOp 0x0B#8 ∧ encode (.takeUint 120) = .cursorOp 0xF8#8 := by decide +kernel

/-! ## Small states -/

/-- The block in state `code` over a sequence, with the cursor at `pos`. -/
def blockAt (code : BitVec 5) (pos : BitVec 8) (bits : BitSeq) : Block :=
  { Block.reset with state := code, pos := pos, buf := toPort bits, len := toPortLen bits }

/-- The machine with that block, and otherwise after reset. -/
def stateAt (code : BitVec 5) (pos : BitVec 8) (bits : BitSeq) : State :=
  { State.reset with block := blockAt code pos bits }

/-- The next state of an outcome, where there is one. -/
def next? : Result → Option State
  | .next s => some s
  | .fault _ => none
  | .refused _ => none

/-- The cursor and the state after an outcome. -/
def posState (r : Result) : Option (BitVec 8 × BitVec 5) := (next? r).map fun s => (s.block.pos, s.block.state)

/-- A register after an outcome. -/
def reg (f : Block → BitVec n) (r : Result) : Option (BitVec n) := (next? r).map fun s => f s.block

/-- The error registers after an outcome, where it is in ERROR. -/
def err (r : Result) : Option (Nat × Nat × Nat) :=
  (next? r).bind fun s =>
    if s.block.state = 19#5 then some (s.block.errKind.toNat, s.block.errA.toNat, s.block.errB.toNat) else none

/-- The frame V1 of 95_test_vectors.md. -/
def v1 : BitSeq := lowBits 0b0_00000000001_0_0_0_0001_00000000_000000000000000_1_0_1_1111111_111 55

/-- The frame V2: V1 with the ID 2047. -/
def v2 : BitSeq := lowBits 0b0_11111111111_0_0_0_0001_00000000_000000000000000_1_0_1_1111111_111 55

/-- The frame V3: V1 with a start of frame of 1. -/
def v3 : BitSeq := lowBits 0b1_00000000001_0_0_0_0001_00000000_000000000000000_1_0_1_1111111_111 55

/-- The frame W2. -/
def w2 : BitSeq :=
  lowBits 0b0_00000000011_1_1_101010101010101010_0_1_0010_1010101111001101_001001000110100_1_1_1_1111111_111 82

/-! ## Host commands (vectors H, K11, K12) -/

theorem test_nop_while_busy : exec .nop (stateAt 11#5 19#8 v1) = .next (stateAt 11#5 19#8 v1) := rfl
theorem test_decode_from_idle :
    reg Block.status (exec (.decode 55#8 (toPort v1)) State.reset) = some 0x0021#16 := by decide +kernel
theorem test_decode_131_is_too_long :
    let r := exec (.decode 131#8 (toPort v1)) State.reset
    err r = some (1, 131, 0) ∧ reg Block.len r = some 0#8 ∧ reg Block.status r = some 0x0093#16 := by decide +kernel
theorem test_decode_full_from_done :
    let r := exec (.decodeFull 55#8 (toPort v1)) { State.reset with
      block := { blockAt 18#5 47#8 v1 with sensor := 3#3, fData := 7#120, ovr := 1#1 } }
    reg Block.status r = some 0x0221#16 ∧ reg Block.fData r = some 0#120 ∧ reg Block.pos r = some 0#8 := by decide +kernel
theorem test_decode_full_while_busy :
    exec (.decodeFull 3#8 0#130) (stateAt 2#5 1#8 v1) =
      .next { State.reset with block := { blockAt 2#5 1#8 v1 with ovr := 1#1 } } := rfl
theorem test_reserved_command_in_done :
    exec .reservedCmd (stateAt 18#5 55#8 v1) =
      .next { State.reset with block := { blockAt 18#5 55#8 v1 with ovr := 1#1 } } := rfl

/-! ## The normalizer (vectors N) -/

/-- What the normalizer returned. -/
def normOf (r : Result) : Option NormResult := (next? r).bind State.norm

theorem test_text_base_two_first :
    normOf (exec (.normText ['0', '1', '0', '1']) State.reset) = some (.ok [false, true, false, true]) ∧
    normOf (exec (.normText ['1', '0', '1']) State.reset) = some (.ok [true, false, true]) ∧
    normOf (exec (.normText ['0', '0', '1', '2']) State.reset) = some (.ok [true, true, false, false]) := by decide +kernel
theorem test_text_malformed_before_too_long :
    normOf (exec (.normText (List.replicate 131 '1')) State.reset) = some (.frameTooLong 131) ∧
    normOf (exec (.normText (List.replicate 131 '1' ++ ['x'])) State.reset) = some .malformedInput := by decide +kernel
theorem test_bytes_as_text :
    normOf (exec (.normBytes [0x30#8, 0x31#8]) State.reset) = some (.ok [false, true]) ∧
    normOf (exec (.normBytes []) State.reset) = some (.ok []) := by decide +kernel
theorem test_bytes_malformed :
    normOf (exec (.normBytes [0xFF#8]) State.reset) = some .malformedInput ∧
    normOf (exec (.normBytes [0x00#8]) State.reset) = some .malformedInput := by decide +kernel
theorem test_int_five_and_zero :
    normOf (exec (.normInt 5) State.reset) = some (.ok [true, false, true]) ∧
    normOf (exec (.normInt 0) State.reset) = some (.ok [false]) := by decide +kernel
theorem test_int_bounds :
    normOf (exec (.normInt (-1)) State.reset) = some .malformedInput ∧
    normOf (exec (.normInt (2 ^ 130)) State.reset) = some (.frameTooLong 131) := by decide +kernel

/-! ## The cursor (vectors K) -/

/-- What a cursor operation returned. -/
def takenOf (r : Result) : Option CursorValue := (next? r).bind State.taken

theorem test_take_two_of_three :
    let r := exec (.take 2) (stateAt 0#5 0#8 [true, false, true])
    takenOf r = some (.bits [true, false]) ∧ reg Block.pos r = some 2#8 := by decide +kernel
theorem test_take_two_of_one :
    let r := exec (.take 2) (stateAt 0#5 2#8 [true, false, true])
    err r = some (2, 2, 1) ∧ reg Block.pos r = some 2#8 ∧ takenOf r = none := by decide +kernel
theorem test_take_uint_120_ones :
    let r := exec (.takeUint 120) (stateAt 0#5 0#8 (List.replicate 130 true))
    takenOf r = some (.uint (2 ^ 120 - 1)) ∧ reg Block.pos r = some 120#8 := by decide +kernel
theorem test_take_uint_0_at_the_end :
    let r := exec (.takeUint 0) (stateAt 0#5 130#8 (List.replicate 130 true))
    takenOf r = some (.uint 0) ∧ reg Block.pos r = some 130#8 := by decide +kernel

theorem test_mem_read_ends_at_the_length :
    memRead (blockAt 1#5 0#8 [true, false, true]) 1 2 = .ok 1 ∧
    memRead (blockAt 1#5 0#8 [true, false, true]) 1 3 = .error .pastSequence ∧
    memRead (blockAt 1#5 0#8 [true, false, true]) 3 0 = .ok 0 := by decide +kernel

/-! ## The field walk, state by state (vectors V and W) -/

theorem test_sof_goes_on : posState (exec .sSof (stateAt 1#5 0#8 v1)) = some (1#8, 2#5) := by decide +kernel
theorem test_sof_of_one :
    let r := exec .sSof (stateAt 1#5 0#8 v3)
    err r = some (3, 1, 1) ∧ reg Block.pos r = some 1#8 ∧ reg Block.fSof r = some 1#1 := by decide +kernel
theorem test_arb_id_2047 :
    let r := exec .sArbId (stateAt 2#5 1#8 v2)
    reg Block.fArb r = some 2047#11 ∧ posState r = some (12#8, 3#5) := by decide +kernel
theorem test_arb_id_without_bits : err (exec .sArbId (stateAt 2#5 1#8 [false])) = some (2, 11, 0) := by decide +kernel
theorem test_classify_3 :
    let r := exec .sClassify { State.reset with block := { blockAt 3#5 12#8 v1 with fArb := 3#11 } }
    reg Block.sensor r = some 3#3 ∧ posState r = some (12#8, 4#5) := by decide +kernel
theorem test_classify_1_under_another_table :
    err (exec .sClassify { State.reset with
      sensorMap := [(0x123#11, .fuelLevel)], block := { blockAt 3#5 12#8 v1 with fArb := 1#11 } }) =
      some (4, 1, 0) := by decide +kernel
theorem test_rtr_of_one :
    let r := exec .sRtr (stateAt 4#5 12#8 w2)
    reg Block.fRtr r = some 1#1 ∧ posState r = some (13#8, 5#5) := by decide +kernel
theorem test_ide_of_one : posState (exec .sIde (stateAt 5#5 13#8 w2)) = some (14#8, 6#5) := by decide +kernel
theorem test_ide_of_zero : posState (exec .sIde (stateAt 5#5 13#8 v1)) = some (14#8, 9#5) := by decide +kernel
theorem test_srr_copies :
    let r := exec .sSrr { State.reset with block := { blockAt 6#5 14#8 w2 with fRtr := 1#1 } }
    reg Block.fSrr r = some 1#1 ∧ reg Block.fSrrV r = some 1#1 ∧ posState r = some (14#8, 7#5) := by decide +kernel
theorem test_ext_id_w2 :
    let r := exec .sExtId (stateAt 7#5 14#8 w2)
    reg Block.fExt r = some 174762#18 ∧ reg Block.fExtV r = some 1#1 ∧ posState r = some (32#8, 8#5) := by decide +kernel
theorem test_ext_id_short :
    let r := exec .sExtId (stateAt 7#5 14#8 (lowBits 0b0_00000000010_0_1_10101 19))
    err r = some (2, 18, 5) ∧ reg Block.pos r = some 14#8 := by decide +kernel
theorem test_rtr2_overwrites :
    let r := exec .sRtr2 { State.reset with block := { blockAt 8#5 32#8 w2 with fRtr := 1#1, fSrr := 1#1 } }
    reg Block.fRtr r = some 0#1 ∧ reg Block.fSrr r = some 1#1 ∧ posState r = some (33#8, 9#5) := by decide +kernel
theorem test_reserved_of_one :
    let r := exec .sReserved (stateAt 9#5 33#8 w2)
    reg Block.fRsv r = some 1#1 ∧ posState r = some (34#8, 10#5) := by decide +kernel
theorem test_dlc_v1 :
    let r := exec .sDlc (stateAt 10#5 15#8 v1)
    reg Block.fDlc r = some 1#4 ∧ posState r = some (19#8, 11#5) := by decide +kernel
theorem test_data_w2 :
    let r := exec .sData { State.reset with block := { blockAt 11#5 38#8 w2 with fDlc := 2#4 } }
    reg Block.fData r = some 0xABCD#120 ∧ posState r = some (54#8, 12#5) := by decide +kernel
theorem test_data_empty_at_the_end :
    let r := exec .sData (stateAt 11#5 19#8 (lowBits 0b0_00000000001_0_0_0_0000 19))
    reg Block.fData r = some 0#120 ∧ posState r = some (19#8, 12#5) := by decide +kernel
theorem test_crc_w2 :
    let r := exec .sCrc (stateAt 12#5 54#8 w2)
    reg Block.fCrc r = some 0x1234#15 ∧ posState r = some (69#8, 13#5) := by decide +kernel
theorem test_crc_without_bits :
    err (exec .sCrc (stateAt 12#5 19#8 (lowBits 0b0_00000000001_0_0_0_0000 19))) = some (2, 15, 0) := by decide +kernel
theorem test_crc_delimiter_of_one : posState (exec .sCrcDel (stateAt 13#5 42#8 v1)) = some (43#8, 14#5) := by decide +kernel
theorem test_crc_delimiter_of_zero :
    let r := exec .sCrcDel (stateAt 13#5 41#8 v1)
    err r = some (3, 2, 0) ∧ reg Block.pos r = some 42#8 := by decide +kernel
theorem test_ack_w2 :
    let r := exec .sAck (stateAt 14#5 70#8 w2)
    reg Block.fAck r = some 1#1 ∧ posState r = some (71#8, 15#5) := by decide +kernel
theorem test_ack_delimiter_of_one : posState (exec .sAckDel (stateAt 15#5 44#8 v1)) = some (45#8, 16#5) := by decide +kernel
theorem test_ack_delimiter_of_zero : err (exec .sAckDel (stateAt 15#5 43#8 v1)) = some (3, 3, 0) := by decide +kernel
theorem test_eof_v1 :
    let r := exec .sEof (stateAt 16#5 45#8 v1)
    reg Block.fEof r = some 127#7 ∧ posState r = some (52#8, 17#5) := by decide +kernel
theorem test_eof_short :
    err (exec .sEof (stateAt 16#5 125#8 (List.replicate 130 true))) = some (2, 7, 5) := by decide +kernel
theorem test_ifs_v1 :
    let r := exec .sIfs (stateAt 17#5 52#8 v1)
    reg Block.fIfs r = some 7#3 ∧ posState r = some (55#8, 18#5) ∧ reg Block.status r = some 0x0052#16 := by decide +kernel
theorem test_ifs_short : err (exec .sIfs (stateAt 17#5 52#8 (v1.take 54))) = some (2, 3, 2) := by decide +kernel
theorem test_idle_holds : exec .sIdle State.reset = .next State.reset := rfl
theorem test_done_holds : exec .sDone (stateAt 18#5 55#8 v1) = .next (stateAt 18#5 55#8 v1) := rfl
theorem test_error_holds : exec .sError (stateAt 19#5 1#8 v3) = .next (stateAt 19#5 1#8 v3) := rfl

/-! ## Results, reset and the step -/

/-- The end of program P2 of 95_test_vectors.md. -/
def p2End : Block :=
  { blockAt 18#5 82#8 w2 with
    mode := 1#1, fArb := 3#11, fIde := 1#1, fSrr := 1#1, fSrrV := 1#1, fExt := 174762#18, fExtV := 1#1, fRsv := 1#1
    fDlc := 2#4, fData := 0xABCD#120, fCrc := 0x1234#15, fCrcd := 1#1, fAck := 1#1, fAckd := 1#1, fEof := 127#7
    fIfs := 7#3, sensor := 3#3 }

theorem test_result_view_of_p2 :
    p2End.status = 0x0252#16 ∧ p2End.resSensor = 3#3 ∧ p2End.resData = 43981#120 ∧
    p2End.resFrame = 0x37AAAAB22469FFF#68 := by decide +kernel
theorem test_walk_of_v3 : walk v3 defaultSensorMap = .error (.invalidFixedBit .startOfFrame 1) := by decide +kernel
theorem test_reset_mid_decode :
    step { stateAt 11#5 19#8 v1 with turns := [.reset] } = .next State.reset := rfl
theorem test_step_runs_the_placed_word :
    step (State.reset.withFetchWord 8 0x01) = exec (.decode 0#8 0#130) State.reset ∧
    step (State.reset.withFetchWord 8 0x81) = exec (.takeUint 1) State.reset := ⟨rfl, rfl⟩
theorem test_step_runs_the_placed_state :
    posState (step (State.reset.withFetchWord 8 0x06)) = some (0#8, 7#5) := by decide +kernel
theorem test_call_normalizes_first :
    normOf (step { State.reset with program := [.call true 0b00#2 message] }) = some (.ok [false, true]) := by decide +kernel

/-! ## States that meet the hypotheses of the obligations, clause by clause -/

/-- What remains in state `code` at the start of a sequence of `n` ones. -/
def left (code : BitVec 5) (n : Nat) : Nat :=
  (stateAt code 0#8 (List.replicate n true)).block.len.toNat - (stateAt code 0#8 (List.replicate n true)).block.pos.toNat

/-- A standard frame in DONE at its greatest length: DLC 10, 127 bits (vector W4). -/
def doneStandard : Block :=
  { blockAt 18#5 127#8 (List.replicate 127 true) with
    fArb := 4#11, fDlc := 10#4, fData := 0x0102030405060708090A#120, fCrcd := 1#1, fAckd := 1#1, fEof := 127#7
    fIfs := 7#3, sensor := 4#3 }

/-- An extended frame in DONE at its greatest length: DLC 8, 130 bits (vector W7). -/
def doneExtended : Block :=
  { blockAt 18#5 130#8 (List.replicate 130 true) with
    mode := 1#1, fArb := 5#11, fIde := 1#1, fSrrV := 1#1, fExtV := 1#1, fDlc := 8#4, fData := 0xFFFFFFFFFFFFFFFF#120
    fCrcd := 1#1, fAckd := 1#1, fEof := 127#7, fIfs := 7#3, sensor := 5#3 }

theorem witness_DecodeEncodeRoundTrip :
    (Instr.take 127).wellFormed = true ∧ (Instr.takeUint 0).wellFormed = true ∧ Instr.sError.wellFormed = true := by
  decide +kernel
theorem witness_DecodedWordReencodes :
    decode (.cursorOp 0xFF#8) = .ok (.takeUint 127) ∧ decode (.fsmState 19#5) = .ok .sError := by decide +kernel
theorem witness_NoWordMatchesTwoRows :
    (tableRow (.take 5)).format = (tableRow (.take 9)).format ∧
    0x7F &&& (tableRow (.take 5)).mask = (tableRow (.take 5)).pattern ∧
    0x7F &&& (tableRow (.take 9)).mask = (tableRow (.take 9)).pattern := by decide +kernel
theorem witness_NoWordMatchesTwoRows_decode :
    (decode (.cursorOp 0x0B#8) = .ok (.take 11) ∧ (Instr.take 11).ctorIdx = (Instr.take 5).ctorIdx) ∧
    (CodeWord.cursorOp 0x0B#8).format = (tableRow (.take 5)).format ∧
    (CodeWord.cursorOp 0x0B#8).bits &&& (tableRow (.take 5)).mask = (tableRow (.take 5)).pattern ∧
    (CodeWord.cursorOp 0x8B#8).bits &&& (tableRow (.take 5)).mask ≠ (tableRow (.take 5)).pattern := by decide +kernel
theorem witness_OnlyReservedWordsAreRejected : 20 ≤ (20#5).toNat ∧ 20 ≤ (31#5).toNat ∧ (19#5).toNat < 20 := by decide +kernel
theorem witness_ResetSetsEveryRegister :
    let s := { stateAt 17#5 52#8 v1 with turns := [.reset, .host] }
    s.turns = .reset :: [.host] ∧ s.block.reservedValue = none := by decide +kernel
theorem witness_StepRunsDecodedInstruction_block :
    let s := { stateAt 17#5 52#8 v1 with turns := [.block] }
    s.block.reservedValue = none ∧ s.turns = .block :: [] ∧ decode (.fsmState s.block.state) = .ok .sIfs := by
  decide +kernel
theorem witness_StepRunsDecodedInstruction_block_by_default :
    let s := stateAt 17#5 52#8 v1
    s.block.reservedValue = none ∧ s.turns = [] ∧ s.block.enabled = true ∧
    decode (.fsmState s.block.state) = .ok .sIfs := by decide +kernel
theorem witness_StepRunsDecodedInstruction_drive :
    let s := { stateAt 17#5 52#8 v1 with turns := [.host], program := [.drive 1#2 3#8 0#130] }
    s.block.reservedValue = none ∧ s.turns = .host :: [] ∧ s.program = .drive 1#2 3#8 0#130 :: [] ∧
    decode (.hostCmd 1#2 3#8 0#130) = .ok (.decode 3#8 0#130) := by decide +kernel
theorem witness_StepRunsDecodedInstruction_drive_by_default :
    let s := { stateAt 18#5 55#8 v1 with program := [.drive 2#2 3#8 0#130] }
    s.block.reservedValue = none ∧ s.turns = [] ∧ s.block.enabled = false ∧ s.program = .drive 2#2 3#8 0#130 :: [] ∧
    decode (.hostCmd 2#2 3#8 0#130) = .ok (.decodeFull 3#8 0#130) := by decide +kernel
theorem witness_StepRunsDecodedInstruction_normalize :
    let s := { State.reset with turns := [.host], program := [.normalize 0#2 message] }
    s.block.reservedValue = none ∧ s.turns = .host :: [] ∧ s.program = .normalize 0#2 message :: [] ∧
    decode (.inputShape 0#2 message) = .ok (.normText ['0', '1']) := by decide +kernel
theorem witness_StepRunsDecodedInstruction_cursor :
    let s := { State.reset with turns := [.cursor 0x8B#8] }
    s.block.reservedValue = none ∧ s.turns = .cursor 0x8B#8 :: [] ∧ decode (.cursorOp 0x8B#8) = .ok (.takeUint 11) := by
  decide +kernel
theorem witness_StepRunsDecodedInstruction_idle_host :
    let s := { State.reset with turns := [.host] }
    s.block.reservedValue = none ∧ s.turns = .host :: [] ∧ s.program = [] ∧
    State.reset.turns = [] ∧ State.reset.block.enabled = false ∧ State.reset.program = [] := by decide +kernel
theorem witness_ReservedStatesHaveNoStep :
    20 ≤ (stateAt 20#5 0#8 []).block.state.toNat ∧ 20 ≤ (stateAt 31#5 0#8 []).block.state.toNat := by decide +kernel
theorem witness_ReservedStatesHaveNoStep_next : step State.reset = .next State.reset := rfl
theorem witness_ReservedTagIsMalformedInput :
    let s := { State.reset with turns := [.host], program := [.normalize 0b11#2 message] }
    s.block.reservedValue = none ∧ s.turns = .host :: [] ∧ s.program = .normalize 0b11#2 message :: [] := by
  decide +kernel
theorem witness_CommandsLatchAndStart :
    (stateAt 0#5 0#8 []).block.state = 0#5 ∧ (stateAt 18#5 0#8 []).block.state = 18#5 ∧
    (stateAt 19#5 0#8 []).block.state = 19#5 ∧ (130#8).toNat ≤ 130 ∧ 130 < (131#8).toNat ∧
    ¬ ((stateAt 1#5 0#8 []).block.state = 0#5 ∨ (stateAt 1#5 0#8 []).block.state = 18#5 ∨
      (stateAt 1#5 0#8 []).block.state = 19#5) := by decide +kernel
theorem witness_RejectedCommandsOnlySetOverrun :
    (stateAt 1#5 0#8 v1).block.state ≠ 0#5 ∧ (stateAt 1#5 0#8 v1).block.state ≠ 18#5 ∧
    (stateAt 17#5 0#8 v1).block.state ≠ 18#5 ∧ (stateAt 17#5 0#8 v1).block.state ≠ 19#5 := by decide +kernel
theorem witness_OverrunFlagWriters :
    (∃ t, exec (.decode 3#8 0#130) (stateAt 18#5 0#8 v1) = .next t) ∧
    (∃ t, exec (.decodeFull 3#8 0#130) (stateAt 17#5 0#8 v1) = .next t) ∧
    (∃ t, exec .reservedCmd State.reset = .next t) ∧ (∃ t, exec .sSof (stateAt 1#5 0#8 v1) = .next t) ∧
    (∃ t, step { stateAt 11#5 19#8 v1 with turns := [.reset] } = .next t) :=
  ⟨⟨_, rfl⟩, ⟨_, rfl⟩, ⟨_, rfl⟩, ⟨_, rfl⟩, ⟨_, rfl⟩⟩
theorem witness_ResultViewOnlyInDone :
    (blockAt 17#5 52#8 v1).state ≠ 18#5 ∧ (blockAt 19#5 52#8 v1).state ≠ 18#5 ∧ doneStandard.state = 18#5 ∧
    doneStandard.mode = 0#1 ∧ doneExtended.state = 18#5 ∧ doneExtended.mode = 1#1 := by decide +kernel
theorem witness_ErrorRegistersRoundTrip : 255 < 256 ∧ 127 < 128 ∧ 1 < 2 ∧ 2047 < 2048 := by decide +kernel
theorem witness_MinbinIsTheShortestForm :
    0 < 1 ∧ [true].head? = some true ∧ uint [true] = 1 ∧ [true, false].head? = some true ∧ uint [true, false] = 2 := by
  decide +kernel
theorem witness_TextNormalizes_base_two :
    (List.replicate 130 '1').length ≤ 130 ∧ 130 < (List.replicate 131 '0').length ∧
    (∀ c ∈ List.replicate 130 '1', c = '0' ∨ c = '1') ∧ (∀ c ∈ List.replicate 131 '0', c = '0' ∨ c = '1') := by
  simp
theorem witness_TextNormalizes_decimal :
    (∀ c ∈ '2' :: List.replicate 38 '0', '0' ≤ c ∧ c ≤ '9') ∧ (∀ c ∈ '2' :: List.replicate 39 '0', '0' ≤ c ∧ c ≤ '9') ∧
    (∃ c ∈ '2' :: List.replicate 38 '0', c ≠ '0' ∧ c ≠ '1') ∧ (∃ c ∈ '2' :: List.replicate 39 '0', c ≠ '0' ∧ c ≠ '1') :=
  ⟨by simp, by simp, ⟨'2', by simp⟩, ⟨'2', by simp⟩⟩
theorem witness_TextNormalizes_decimal_value :
    ('2' :: List.replicate 38 '0').foldl (fun a c => 10 * a + (c.toNat - 48)) 0 = 2 * 10 ^ 38 ∧
    ('2' :: List.replicate 39 '0').foldl (fun a c => 10 * a + (c.toNat - 48)) 0 = 2 * 10 ^ 39 ∧
    (minbin (2 * 10 ^ 38)).length ≤ 130 ∧ 130 < (minbin (2 * 10 ^ 39)).length := by decide +kernel
theorem witness_TextNormalizes_malformed :
    (∃ c ∈ ['1', '/'], ¬ ('0' ≤ c ∧ c ≤ '9')) ∧ (∃ c ∈ ['1', ':'], ¬ ('0' ≤ c ∧ c ≤ '9')) :=
  ⟨⟨'/', by simp, by decide⟩, ⟨':', by simp, by decide⟩⟩

/-- No character's encoding begins with the octet FF. -/
theorem utf8_head_lt (c : Char) : ∃ x y, String.utf8EncodeChar c = x :: y ∧ x.toNat < 255 := by
  unfold String.utf8EncodeChar
  dsimp only
  split_ifs
  all_goals exact ⟨_, _, rfl, by have h := c.val.toNat_lt; simp only [UInt8.toNat_ofNat']; omega⟩
theorem witness_BytesNormalizeAsText : ∀ cs, [0xFF#8] ≠ utf8Octets cs := by
  intro cs h
  cases cs with
  | nil => simp [utf8Octets] at h
  | cons c cs =>
    obtain ⟨x, y, hx, hlt⟩ := utf8_head_lt c
    have h0 : (0xFF#8).toNat = x.toNat := by
      have := congrArg (fun l => (l.head?.map BitVec.toNat)) h
      simpa [utf8Octets, hx, Nat.mod_eq_of_lt (Nat.lt_succ_of_lt hlt)] using this
    simp at h0
    omega
theorem witness_IntegersNormalize :
    (-1 : Int) < 0 ∧ (0 : Int) ≤ 0 ∧ (2 ^ 130 - 1 : Int) < 2 ^ 130 ∧ (2 ^ 130 : Int) ≤ 2 ^ 130 := by decide +kernel
theorem witness_PortsCarryTheSequence :
    (List.replicate 130 true).length ≤ 130 ∧ ([] : BitSeq).length ≤ 130 := by decide +kernel
theorem witness_PositiveIntegersFailAtStartOfFrame :
    (0 : Int) < 1 ∧ (1 : Int) < 2 ^ 130 ∧ (0 : Int) < 2 ^ 130 - 1 := by decide +kernel
theorem witness_MemReadReadsItsCells :
    (blockAt 1#5 0#8 (List.replicate 130 true)).len.toNat ≤ 130 ∧
    119 + 11 ≤ (blockAt 1#5 0#8 (List.replicate 130 true)).len.toNat := by decide +kernel
theorem witness_TakeReturnsTheNextBits :
    (stateAt 0#5 2#8 [true, false, true]).block.cursorOk ∧
    (stateAt 0#5 2#8 [true, false, true]).block.len.toNat - (stateAt 0#5 2#8 [true, false, true]).block.pos.toNat = 1 := by
  decide +kernel
theorem witness_TakeUintReturnsTheValue :
    (stateAt 0#5 130#8 (List.replicate 130 true)).block.cursorOk ∧ left 0#5 120 = 120 ∧ left 0#5 119 < 120 := by
  decide +kernel
theorem witness_StartOfFrameMicroStep :
    (stateAt 1#5 0#8 (List.replicate 1 true)).block.cursorOk ∧ left 1#5 1 = 1 ∧
    (stateAt 1#5 0#8 (List.replicate 0 true)).block.cursorOk ∧ left 1#5 0 < 1 := by decide +kernel
theorem witness_IdentifierMicroSteps_base :
    (stateAt 2#5 0#8 (List.replicate 11 true)).block.cursorOk ∧ left 2#5 11 = 11 ∧
    (stateAt 2#5 0#8 (List.replicate 10 true)).block.cursorOk ∧ left 2#5 10 < 11 := by decide +kernel
theorem witness_IdentifierMicroSteps_extension :
    (stateAt 7#5 0#8 (List.replicate 18 true)).block.cursorOk ∧ left 7#5 18 = 18 ∧
    (stateAt 7#5 0#8 (List.replicate 17 true)).block.cursorOk ∧ left 7#5 17 < 18 := by decide +kernel
theorem witness_ClassifyMicroStep :
    lookupSensor defaultSensorMap 0#11 = none ∧ lookupSensor defaultSensorMap 6#11 = none ∧
    lookupSensor defaultSensorMap 1#11 = some .temperature ∧ lookupSensor defaultSensorMap 2#11 = some .acceleration ∧
    lookupSensor defaultSensorMap 3#11 = some .wheelSpeed ∧ lookupSensor defaultSensorMap 4#11 = some .suspension ∧
    lookupSensor defaultSensorMap 5#11 = some .fuelLevel := by decide +kernel
theorem witness_UncheckedBitMicroSteps :
    (stateAt 4#5 0#8 (List.replicate 1 true)).block.cursorOk ∧ left 4#5 1 = 1 ∧
    (stateAt 4#5 0#8 (List.replicate 0 true)).block.cursorOk ∧ left 4#5 0 < 1 := by decide +kernel
theorem witness_IdeMicroStepBranches :
    (stateAt 5#5 0#8 (List.replicate 1 true)).block.cursorOk ∧ left 5#5 1 = 1 ∧
    (stateAt 5#5 0#8 (List.replicate 0 true)).block.cursorOk ∧ left 5#5 0 < 1 := by decide +kernel
theorem witness_DlcMicroStep :
    (stateAt 10#5 0#8 (List.replicate 4 true)).block.cursorOk ∧ left 10#5 4 = 4 ∧
    (stateAt 10#5 0#8 (List.replicate 3 true)).block.cursorOk ∧ left 10#5 3 < 4 := by decide +kernel
theorem witness_DataMicroStep :
    let enough := { blockAt 11#5 0#8 (List.replicate 120 true) with fDlc := 15#4 }
    let short := { blockAt 11#5 0#8 (List.replicate 119 true) with fDlc := 15#4 }
    let empty := blockAt 11#5 19#8 (List.replicate 19 true)
    enough.cursorOk ∧ 8 * enough.fDlc.toNat = enough.len.toNat - enough.pos.toNat ∧
    short.cursorOk ∧ short.len.toNat - short.pos.toNat < 8 * short.fDlc.toNat ∧
    empty.cursorOk ∧ empty.fDlc = 0#4 := by decide +kernel
theorem witness_DelimiterMicroSteps :
    (stateAt 13#5 0#8 (List.replicate 1 true)).block.cursorOk ∧ left 13#5 1 = 1 ∧
    (stateAt 13#5 0#8 (List.replicate 0 true)).block.cursorOk ∧ left 13#5 0 < 1 := by decide +kernel
theorem witness_UncheckedFieldMicroSteps_crc :
    (stateAt 12#5 0#8 (List.replicate 15 true)).block.cursorOk ∧ left 12#5 15 = 15 ∧
    (stateAt 12#5 0#8 (List.replicate 14 true)).block.cursorOk ∧ left 12#5 14 < 15 := by decide +kernel
theorem witness_UncheckedFieldMicroSteps_eof :
    (stateAt 16#5 0#8 (List.replicate 7 true)).block.cursorOk ∧ left 16#5 7 = 7 ∧
    (stateAt 16#5 0#8 (List.replicate 6 true)).block.cursorOk ∧ left 16#5 6 < 7 := by decide +kernel
theorem witness_UncheckedFieldMicroSteps_ifs :
    (stateAt 17#5 0#8 (List.replicate 3 true)).block.cursorOk ∧ left 17#5 3 = 3 ∧
    (stateAt 17#5 0#8 (List.replicate 2 true)).block.cursorOk ∧ left 17#5 2 < 3 := by decide +kernel
theorem witness_OnlyCommandsWriteTheBuffer :
    (∃ t, exec .sSof (stateAt 1#5 0#8 v1) = .next t) ∧ (∃ t, exec (.normInt 5) State.reset = .next t) ∧
    (∃ t, exec (.take 1) (stateAt 1#5 0#8 v1) = .next t) ∧ (∃ t, exec (.decode 3#8 0#130) State.reset = .next t) :=
  ⟨⟨_, rfl⟩, ⟨_, rfl⟩, ⟨_, rfl⟩, ⟨_, rfl⟩⟩
theorem witness_NormalizerLeavesTheBlock :
    (∃ t, exec (.normText []) (stateAt 11#5 19#8 v1) = .next t) ∧
    (∃ t, exec (.normBytes [0xFF#8]) (stateAt 11#5 19#8 v1) = .next t) ∧
    (∃ t, exec (.normInt (-1)) (stateAt 11#5 19#8 v1) = .next t) := ⟨⟨_, rfl⟩, ⟨_, rfl⟩, ⟨_, rfl⟩⟩
theorem witness_RegistersHaveTheirOwnWriters :
    (∃ t, exec .sIde (stateAt 5#5 13#8 w2) = .next t ∧ t.block.state ≠ 19#5) ∧
    (∃ t, exec .sSrr (stateAt 6#5 14#8 w2) = .next t) ∧ (∃ t, exec .sClassify (stateAt 3#5 12#8 v1) = .next t) :=
  ⟨⟨_, rfl, by decide +kernel⟩, ⟨_, rfl⟩, ⟨_, rfl⟩⟩
theorem witness_StepKeepsTheTable :
    ∃ t, step { stateAt 3#5 12#8 v1 with sensorMap := [(7#11, .suspension)] } = .next t := ⟨_, rfl⟩
theorem witness_ModeDoesNotAffectTheWalk :
    decode (.fsmState 16#5) = .ok .sEof ∧ ∃ t, exec .sEof (stateAt 16#5 45#8 v1) = .next t := ⟨rfl, _, rfl⟩
theorem witness_CellsPastTheLengthAreNeverRead :
    decode (.fsmState 17#5) = .ok .sIfs ∧ (∃ t, exec .sIfs (stateAt 17#5 52#8 v1) = .next t) ∧
    (∀ k, k < (stateAt 17#5 52#8 v1).block.len.toNat →
      (toPort (v1 ++ [true])).getLsbD k = (stateAt 17#5 52#8 v1).block.buf.getLsbD k) ∧
    (toPort (v1 ++ [true])).getLsbD 55 ≠ (stateAt 17#5 52#8 v1).block.buf.getLsbD 55 :=
  ⟨rfl, ⟨_, rfl⟩, by decide +kernel, by decide +kernel⟩

/-- V1 latched, at the start of the walk, is a legal state. -/
theorem inv_start : (stateAt 1#5 0#8 v1).Inv :=
  ⟨⟨by decide +kernel, by decide +kernel, by decide +kernel, by decide +kernel, by decide +kernel, by decide +kernel,
    by decide +kernel, by decide +kernel⟩, by simp [State.portsOnly, stateAt, State.reset]⟩

/-- W2 latched, at the start of the walk, is a legal state. -/
theorem inv_start_extended : (stateAt 1#5 0#8 w2).Inv :=
  ⟨⟨by decide +kernel, by decide +kernel, by decide +kernel, by decide +kernel, by decide +kernel, by decide +kernel,
    by decide +kernel, by decide +kernel⟩, by simp [State.portsOnly, stateAt, State.reset]⟩

/-- V2 latched, at the start of the walk, is a legal state. -/
theorem inv_start_unknown : (stateAt 1#5 0#8 v2).Inv :=
  ⟨⟨by decide +kernel, by decide +kernel, by decide +kernel, by decide +kernel, by decide +kernel, by decide +kernel,
    by decide +kernel, by decide +kernel⟩, by simp [State.portsOnly, stateAt, State.reset]⟩

theorem inv_doneStandard : doneStandard.Inv :=
  ⟨by decide +kernel, by decide +kernel, by decide +kernel, by decide +kernel, by decide +kernel, by decide +kernel,
    by decide +kernel, by decide +kernel⟩

theorem inv_doneExtended : doneExtended.Inv :=
  ⟨by decide +kernel, by decide +kernel, by decide +kernel, by decide +kernel, by decide +kernel, by decide +kernel,
    by decide +kernel, by decide +kernel⟩

theorem witness_StepKeepsLegalStates :
    (stateAt 1#5 0#8 v1).Inv ∧ ∃ t, step (stateAt 1#5 0#8 v1) = .next t := ⟨inv_start, _, rfl⟩
theorem witness_LegalStatesAlwaysStep : (stateAt 1#5 0#8 w2).Inv := inv_start_extended
theorem witness_StepKeepsTheCursorInBounds :
    (stateAt 0#5 2#8 [true, false, true]).block.cursorOk ∧
    ∃ t, step { stateAt 0#5 2#8 [true, false, true] with turns := [.cursor 0x01#8] } = .next t :=
  ⟨by decide +kernel, _, rfl⟩
theorem witness_TheWalkNeverMovesBack :
    (stateAt 17#5 52#8 v1).block.cursorOk ∧ ∃ t, step { stateAt 17#5 52#8 v1 with turns := [.block] } = .next t :=
  ⟨by decide +kernel, _, rfl⟩
theorem witness_TheWalkNeverMovesBack_by_default :
    let s := stateAt 17#5 52#8 v1
    s.block.cursorOk ∧ s.turns = [] ∧ s.block.enabled = true ∧ ∃ t, step s = .next t :=
  ⟨by decide +kernel, rfl, by decide +kernel, _, rfl⟩
theorem witness_DoneHoldsAWholeFrame : doneStandard.Inv ∧ doneStandard.state = 18#5 := ⟨inv_doneStandard, rfl⟩
theorem witness_OnlyShortFramesDecode :
    (doneStandard.Inv ∧ doneStandard.state = 18#5 ∧ doneStandard.fIde = 0#1 ∧ doneStandard.fDlc = 10#4) ∧
    (doneExtended.Inv ∧ doneExtended.state = 18#5 ∧ doneExtended.fIde = 1#1 ∧ doneExtended.fDlc = 8#4) :=
  ⟨⟨inv_doneStandard, rfl, rfl, rfl⟩, inv_doneExtended, rfl, rfl, rfl⟩

/-- The frame of V1, field by field. -/
def v1Frame : Frame :=
  { Frame.blank with arb := 1#11, dlc := 1#4, crcd := 1#1, ackd := 1#1, eof := 127#7, ifs := 7#3 }

/-- The frame of W2, field by field. -/
def w2Frame : Frame :=
  { Frame.blank with
    arb := 3#11, ide := 1#1, srr := some 1#1, ext := some 174762#18, rsv := 1#1, dlc := 2#4, data := 43981#120
    crc := 4660#15, crcd := 1#1, ack := 1#1, ackd := 1#1, eof := 127#7, ifs := 7#3 }

theorem test_walk_of_v1 : walk v1 defaultSensorMap = .ok .temperature v1Frame := by decide +kernel
theorem test_walk_of_w2 : walk w2 defaultSensorMap = .ok .wheelSpeed w2Frame := by decide +kernel
theorem witness_FieldsStandWhereTheFormatSays :
    (walk v1 defaultSensorMap = .ok .temperature v1Frame ∧ v1Frame.ide = 0#1) ∧
    (walk w2 defaultSensorMap = .ok .wheelSpeed w2Frame ∧ w2Frame.ide = 1#1) :=
  ⟨⟨test_walk_of_v1, rfl⟩, test_walk_of_w2, rfl⟩
theorem witness_LeftoverBitsAreIgnored : walk v1 defaultSensorMap = .ok .temperature v1Frame := test_walk_of_v1
theorem witness_UnknownIdFailsFast :
    (List.replicate 11 true).length = 11 ∧
    lookupSensor defaultSensorMap (BitVec.ofNat 11 (uint (List.replicate 11 true))) = none := by decide +kernel
theorem witness_MicroStepsComputeTheWalk :
    (stateAt 1#5 0#8 v1).Inv ∧ (stateAt 1#5 0#8 v2).Inv ∧ (stateAt 1#5 0#8 v1).turns = [] ∧
    (stateAt 1#5 0#8 v1).block.state = 1#5 ∧
    walk (slice (stateAt 1#5 0#8 v1).block.buf 0 (stateAt 1#5 0#8 v1).block.len.toNat) defaultSensorMap =
      .ok .temperature v1Frame ∧
    walk (slice (stateAt 1#5 0#8 v2).block.buf 0 (stateAt 1#5 0#8 v2).block.len.toNat) defaultSensorMap =
      .error (.unknownArbitrationId 2047) :=
  ⟨inv_start, inv_start_unknown, rfl, rfl, by decide +kernel, by decide +kernel⟩
theorem witness_FramesTakeFourteenOrSeventeenSteps :
    (stateAt 1#5 0#8 v1).Inv ∧ (stateAt 1#5 0#8 v1).turns = [] ∧ (stateAt 1#5 0#8 v1).block.state = 1#5 ∧
    walk (slice (stateAt 1#5 0#8 v1).block.buf 0 (stateAt 1#5 0#8 v1).block.len.toNat) defaultSensorMap =
      .ok .temperature v1Frame ∧
    (stateAt 1#5 0#8 w2).Inv ∧ (stateAt 1#5 0#8 w2).turns = [] ∧ (stateAt 1#5 0#8 w2).block.state = 1#5 ∧
    walk (slice (stateAt 1#5 0#8 w2).block.buf 0 (stateAt 1#5 0#8 w2).block.len.toNat) defaultSensorMap =
      .ok .wheelSpeed w2Frame :=
  ⟨inv_start, rfl, rfl, by decide +kernel, inv_start_extended, rfl, rfl, by decide +kernel⟩
theorem witness_EveryDecodeEnds :
    (stateAt 1#5 0#8 v1).Inv ∧ (stateAt 1#5 0#8 v1).turns = [] ∧ (stateAt 1#5 0#8 v1).block.enabled = true :=
  ⟨inv_start, rfl, by decide +kernel⟩

/-- A busy machine whose host is about to call `decode_full`. -/
def callWhileBusy : State := { stateAt 1#5 0#8 v1 with program := [.call true 0b00#2 message] }

theorem witness_LibraryCallsReturnTheWalk :
    callWhileBusy.Inv ∧ callWhileBusy.turns = [] ∧ callWhileBusy.program = .call true 0b00#2 message :: [] :=
  ⟨⟨inv_start.block, by simp [State.portsOnly, callWhileBusy, stateAt, State.reset]⟩, rfl, rfl⟩

end Sys2Proof.Tests
end

/-! PROOFS of the family 00_scope: what a step runs and that a legal state has one, the value of a bit sequence, and
the classification table. -/

namespace Sys2Proof.Machine

/-! ### The classification table -/

/-- Settles O40: the default table is searched entry by entry, in the order of the statement. -/
theorem defaultTableMapsOneToFive : Obligations.DefaultTableMapsOneToFive := by
  intro id
  simp only [defaultSensorMap, lookupSensor, eq_comm (b := id)]

/-- The table that gives the listed IDs what `f` gives them, and no type to any other ID. -/
def tabulate (f : BitVec 11 → Option SensorType) : List (BitVec 11) → SensorMap
  | [] => []
  | id :: ids =>
    match f id with
    | none => tabulate f ids
    | some t => (id, t) :: tabulate f ids

theorem lookupSensor_tabulate (f : BitVec 11 → Option SensorType) (ids : List (BitVec 11)) (id : BitVec 11) :
    lookupSensor (tabulate f ids) id = if id ∈ ids then f id else none := by
  induction ids with
  | nil => rfl
  | cons k ids ih =>
    by_cases hk : k = id
    · subst hk
      cases hf : f k <;> simp [tabulate, lookupSensor, hf, ih]
    · cases hf : f k <;> simp [tabulate, lookupSensor, hf, ih, hk, Ne.symm hk]

/-- Every 11-bit ID. -/
def allIds : List (BitVec 11) := (List.finRange (2 ^ 11)).map BitVec.ofFin

theorem mem_allIds (id : BitVec 11) : id ∈ allIds :=
  List.mem_map.mpr ⟨id.toFin, List.mem_finRange _, rfl⟩

/-- Settles O41: the table lists the function's value at every ID. -/
theorem everyTableIsRepresentable : Obligations.EveryTableIsRepresentable :=
  fun f => ⟨tabulate f allIds, fun id => by rw [lookupSensor_tabulate, if_pos (mem_allIds id)]⟩

/-! ### The value of a bit sequence -/

/-- Settles O20, by induction on the sequence: the first bit is the sum's term at index 0. -/
theorem uintIsBigEndianSum : Obligations.UintIsBigEndianSum := by
  intro s
  induction s with
  | nil => rfl
  | cons b s ih =>
    rw [uint_cons, ih, List.length_cons, Finset.sum_range_succ', Nat.add_comm]
    simp [Nat.sub_sub, Nat.add_comm 1]

/-! ### Who moves, and the word of the move -/

theorem move_blockTurn {s : State} {ts : List Turn} (h : s.turns = .block :: ts) :
    move s = .run (.fsmState s.block.state) (s.setTurns ts) := by
  simp [move, h, blockMove]

theorem move_hostTurn {s : State} {ts : List Turn} (h : s.turns = .host :: ts) :
    move s = hostMove (s.setTurns ts) := by
  simp [move, h]

theorem move_cursorTurn {s : State} {w : BitVec 8} {ts : List Turn} (h : s.turns = .cursor w :: ts) :
    move s = .run (.cursorOp w) (s.setTurns ts) := by
  simp [move, h]

theorem move_noTurn_enabled {s : State} (h : s.turns = []) (he : s.block.enabled = true) :
    move s = .run (.fsmState s.block.state) s := by
  simp [move, h, he, blockMove]

theorem move_noTurn_notEnabled {s : State} (h : s.turns = []) (he : s.block.enabled = false) :
    move s = hostMove s := by
  simp [move, h, he]

theorem hostMove_nil {s : State} (h : s.program = []) : hostMove s = .run nopWord s := by
  simp [hostMove, h]

theorem hostMove_drive {s : State} {cmd : BitVec 2} {l : BitVec 8} {c : Cells} {ps : List HostOp}
    (h : s.program = .drive cmd l c :: ps) : hostMove s = .run (.hostCmd cmd l c) (s.setProgram ps) := by
  simp [hostMove, h]

theorem hostMove_normalize {s : State} {tag : BitVec 2} {raw : RawOperands} {ps : List HostOp}
    (h : s.program = .normalize tag raw :: ps) : hostMove s = .run (.inputShape tag raw) (s.setProgram ps) := by
  simp [hostMove, h]

/-! ### What a step answers, by the move it makes -/

theorem step_of_run {s s' : State} {w : CodeWord} {i : Instr} (hr : s.block.reservedValue = none)
    (hm : move s = .run w s') (hd : decode w = .ok i) : step s = exec i s' := by
  simp [step, fetch_eq_move hr, hm, hd]

theorem step_of_reject {s s' : State} {w : CodeWord} {r : Reject} (hr : s.block.reservedValue = none)
    (hm : move s = .run w s') (hd : decode w = .error r) : step s = onReject r s' := by
  simp [step, fetch_eq_move hr, hm, hd]

theorem step_of_done {s t : State} (hr : s.block.reservedValue = none) (hm : move s = .done t) :
    step s = .next t := by
  simp [step, fetch_eq_move hr, hm]

/-- Settles O8: each clause names the move, and the step runs the move's word. -/
theorem stepRunsDecodedInstruction : Obligations.StepRunsDecodedInstruction := by
  intro s i ts ps hr
  refine ⟨fun ht hd => ?block, fun ht he hd => ?blockByDefault, fun cmd l c ht hp hd => ?drive,
    fun cmd l c ht he hp hd => ?driveByDefault, fun tag raw ht hp hd => ?normalize, fun w ht hd => ?cursor,
    fun ht hp => ?idleHost, fun ht he hp => ?idleHostByDefault⟩
  case block => exact step_of_run hr (move_blockTurn ht) hd
  case blockByDefault => exact step_of_run hr (move_noTurn_enabled ht he) hd
  case drive => exact step_of_run hr ((move_hostTurn ht).trans (hostMove_drive hp)) hd
  case driveByDefault => exact step_of_run hr ((move_noTurn_notEnabled ht he).trans (hostMove_drive hp)) hd
  case normalize => exact step_of_run hr ((move_hostTurn ht).trans (hostMove_normalize hp)) hd
  case cursor => exact step_of_run hr (move_cursorTurn ht) hd
  case idleHost => exact step_of_run hr ((move_hostTurn ht).trans (hostMove_nil hp)) rfl
  case idleHostByDefault => exact step_of_run hr ((move_noTurn_notEnabled ht he).trans (hostMove_nil hp)) rfl

/-! ### The registers of a legal block name what they stand for -/

theorem fixedFieldOf_ne_none {code : Nat} (h1 : 1 ≤ code) (h3 : code ≤ 3) : fixedFieldOf code ≠ none := by
  obtain rfl | rfl | rfl : code = 1 ∨ code = 2 ∨ code = 3 := by omega
  all_goals decide

theorem sensorOf_ne_none : ∀ {code : BitVec 3}, 1 ≤ code.toNat → code.toNat ≤ 5 → sensorOf code ≠ none := by
  decide

theorem errorOf_ne_none {kind : BitVec 3} {a : BitVec 16} (b : BitVec 8) (h1 : 1 ≤ kind.toNat) (h4 : kind.toNat ≤ 4)
    (ha : kind = 3#3 → fixedFieldOf a.toNat ≠ none) : errorOf kind a b ≠ none := by
  have hkind : kind = 1#3 ∨ kind = 2#3 ∨ kind = 3#3 ∨ kind = 4#3 := by
    simp only [← BitVec.toNat_inj, BitVec.toNat_ofNat]
    omega
  obtain rfl | rfl | rfl | rfl := hkind
  · simp [errorOf]
  · simp [errorOf]
  · simpa [errorOf] using ha rfl
  · simp [errorOf]

theorem Block.Inv.errKind_le {b : Block} (h : b.Inv) : b.errKind.toNat ≤ 4 := by
  obtain ⟨hin, hout⟩ := h.error
  by_cases he : b.state = Fsm.error
  · exact (hin he).2.1
  · simp [(hout he).1]

/-- The error kind is `InvalidFixedBit` only in ERROR, where `ERR_A` then names a field (rule R94). -/
theorem Block.Inv.fixedField_named {b : Block} (h : b.Inv) (hk : b.errKind = 3#3) :
    fixedFieldOf b.errA.toNat ≠ none := by
  obtain ⟨hin, hout⟩ := h.error
  by_cases he : b.state = Fsm.error
  · obtain ⟨ha1, ha3⟩ := (hin he).2.2 hk
    exact fixedFieldOf_ne_none ha1 ha3
  · simp [(hout he).1] at hk

theorem Block.Inv.reservedValue_eq_none {b : Block} (h : b.Inv) : b.reservedValue = none := by
  have hstate : ¬ 20 ≤ b.state.toNat := by have := h.stateOk; omega
  have hkind : ¬ 5 ≤ b.errKind.toNat := by have := h.errKind_le; omega
  have hfield : ¬ (b.errKind = 3#3 ∧ fixedFieldOf b.errA.toNat = none) :=
    fun ⟨hk, hn⟩ => h.fixedField_named hk hn
  have hsensor : ¬ 6 ≤ b.sensor.toNat := by have := h.sensorOk; omega
  simp only [Block.reservedValue, hstate, hkind, hfield, hsensor, if_false]

theorem doneFlag_eq_one {b : Block} : b.doneFlag = 1#1 ↔ b.state = Fsm.done := by simp [Block.doneFlag]

theorem errFlag_eq_one {b : Block} : b.errFlag = 1#1 ↔ b.state = Fsm.error := by simp [Block.errFlag]

/-- In DONE the ports name a sensor type (rule R30). -/
theorem Block.Inv.sensor_named {b : Block} (h : b.Inv) (hd : b.state = Fsm.done) : sensorOf b.resSensor ≠ none := by
  obtain ⟨-, hclassified, -⟩ := h.checked
  have h1 : 1 ≤ b.sensor.toNat := hclassified (by simp [hd])
  simpa [Block.resSensor, hd] using sensorOf_ne_none h1 h.sensorOk

/-- In ERROR the registers name an error (rule R39). -/
theorem Block.Inv.error_named {b : Block} (h : b.Inv) (he : b.state = Fsm.error) :
    errorOf b.errKind b.errA b.errB ≠ none := by
  obtain ⟨hk1, hk4, -⟩ := h.error.1 he
  exact errorOf_ne_none b.errB hk1 hk4 h.fixedField_named

/-! ### A legal state has a next one -/

theorem hostMove_ne_refused {s : State} (h : s.block.Inv) (r : Refusal) : hostMove s ≠ .refused r := by
  obtain ⟨_, _, e, _⟩ | ⟨_, e⟩ | ⟨_, _, e⟩ | ⟨-, hd, hn⟩ | ⟨-, he, hn⟩ := hostMove_cases s
  · simp [e]
  · simp [e]
  · simp [e]
  · exact absurd hn (h.sensor_named (doneFlag_eq_one.mp hd))
  · exact absurd hn (h.error_named (errFlag_eq_one.mp he))

theorem move_ne_refused {s : State} (h : s.block.Inv) (r : Refusal) : move s ≠ .refused r := by
  unfold move
  split
  · split
    · exact nofun
    · exact hostMove_ne_refused h r
  · refine hostMove_ne_refused ?_ r
    exact h
  · exact nofun
  · exact nofun
  · exact nofun

/-- The `STATE` codes the decoder reads are those below 20 (rules R90, R180). -/
theorem decodeFsmState_isOk : ∀ code : BitVec 5, (decodeFsmState code).isOk = decide (code.toNat < 20) := by decide

/-- All the decoder refuses: a message under the reserved tag, and a reserved `STATE` code (rules R93, R180). -/
theorem decode_error_cases {w : CodeWord} {r : Reject} (h : decode w = .error r) :
    r = .reservedShape ∨ ∃ code, w = .fsmState code ∧ 20 ≤ code.toNat := by
  cases w with
  | hostCmd => cases h
  | cursorOp => cases h
  | inputShape tag raw =>
    rw [decode, decodeInputShape] at h
    split_ifs at h
    cases h
    exact .inl rfl
  | fsmState code =>
    have hok := decodeFsmState_isOk code
    rw [show decodeFsmState code = .error r from h] at hok
    exact .inr ⟨code, rfl, Nat.not_lt.mp (of_decide_eq_false hok.symm)⟩

theorem fieldStep_answers {s : State} (h : s.block.cursorOk) (n : Nat) (w : Nat → Block → Block) :
    ∃ t, fieldStep n w s = .next t := by
  by_cases hn : n ≤ remaining s.block
  · exact ⟨_, fieldStep_enough w h hn⟩
  · exact ⟨_, fieldStep_short w h.1 (Nat.not_le.mp hn)⟩

theorem execTake_answers {s : State} (h : s.block.cursorOk) (n : Nat) : ∃ t, execTake n s = .next t := by
  by_cases hn : n ≤ remaining s.block
  · exact ⟨_, by rw [execTake, take_enough h hn]⟩
  · exact ⟨_, by rw [execTake, take_short h.1 (Nat.not_le.mp hn)]⟩

theorem execTakeUint_answers {s : State} (h : s.block.cursorOk) (n : Nat) : ∃ t, execTakeUint n s = .next t := by
  by_cases hn : n ≤ remaining s.block
  · exact ⟨_, by rw [execTakeUint, takeUint_enough h hn]⟩
  · exact ⟨_, by rw [execTakeUint, takeUint_short h.1 (Nat.not_le.mp hn)]⟩

theorem execSClassify_answers (s : State) : ∃ t, execSClassify s = .next t := by
  unfold execSClassify
  split
  · exact ⟨_, rfl⟩
  · exact ⟨_, rfl⟩

/-- With the cursor in bounds every instruction answers a next state: a read that finds too few bits enters ERROR. -/
theorem exec_answers {s : State} (h : s.block.cursorOk) (i : Instr) : ∃ t, exec i s = .next t := by
  cases i with
  | nop | decode | decodeFull | reservedCmd | normText | normBytes | normInt => exact ⟨_, rfl⟩
  | sIdle | sDone | sError | sSrr => exact ⟨_, rfl⟩
  | sClassify => exact execSClassify_answers s
  | take n => exact execTake_answers h n
  | takeUint n => exact execTakeUint_answers h n
  | sSof | sArbId | sRtr | sIde | sExtId | sRtr2 | sReserved | sDlc => exact fieldStep_answers h _ _
  | sData | sCrc | sCrcDel | sAck | sAckDel | sEof | sIfs => exact fieldStep_answers h _ _

/-- A word that a legal state's mover brings is answered: it runs, or it is a message under the reserved tag. -/
theorem step_answers_of_run {s s' : State} {w : CodeWord} (h : s.block.Inv) (hm : move s = .run w s') :
    ∃ t, step s = .next t := by
  obtain ⟨hblock, -, -, hword⟩ := move_run hm
  cases hd : decode w with
  | ok i =>
    rw [step_of_run h.reservedValue_eq_none hm hd]
    exact exec_answers (by rw [hblock]; exact h.cursor) i
  | error r =>
    rw [step_of_reject h.reservedValue_eq_none hm hd]
    obtain rfl | ⟨code, rfl, hcode⟩ := decode_error_cases hd
    · exact ⟨_, rfl⟩
    · have hstate : code = s.block.state := by simpa [CodeWord.format] using hword
      rw [hstate] at hcode
      exact absurd h.stateOk (by omega)

/-- Settles O49: no register holds a reserved value, the move is not refused, and the word it brings is answered. A
cursor word on its own is answered too, so the clause on the schedule is not needed. -/
theorem legalStatesAlwaysStep : Obligations.LegalStatesAlwaysStep := by
  intro s h
  cases hm : move s with
  | run w s' => exact step_answers_of_run h.block hm
  | done t => exact ⟨t, step_of_done h.block.reservedValue_eq_none hm⟩
  | refused r => exact absurd hm (move_ne_refused h.block r)

end Sys2Proof.Machine

/-! PROOFS of the family 10_state: what an instruction writes of the registers, the invariant every step keeps, and the
words that show the registers on the ports. -/

namespace Sys2Proof.Machine

/-! ### The micro-step of a `STATE` code -/

/-- The decoder reads a `STATE` code as the instruction whose word is that code (rule R90). -/
theorem encode_of_decodeFsmState {code : BitVec 5} {i : Instr} (h : decode (.fsmState code) = .ok i) :
    encode i = .fsmState code := by
  have hall : ∀ c : BitVec 5, (decodeFsmState c).toOption.all (fun i => encode i = .fsmState c) = true := by decide
  have hcode := hall code
  rw [show decodeFsmState code = .ok i from h] at hcode
  simpa [Except.toOption] using hcode

/-! ### What an instruction leaves alone -/

/-- The block holds the same sequence, mode and overrun flag, and its cursor stands where it did or further on in the
sequence. -/
structure Block.KeepsInput (b b' : Block) : Prop where
  buf    : b'.buf = b.buf
  len    : b'.len = b.len
  mode   : b'.mode = b.mode
  ovr    : b'.ovr = b.ovr
  pos_le : b.pos.toNat ≤ b'.pos.toNat
  inside : b.pos.toNat ≤ b.len.toNat → b'.pos.toNat ≤ b.len.toNat

/-- Nothing that `KeepsInput` speaks of is written. -/
theorem Block.KeepsInput.of_eq {b b' : Block} (hbuf : b'.buf = b.buf) (hlen : b'.len = b.len) (hmode : b'.mode = b.mode)
    (hovr : b'.ovr = b.ovr) (hpos : b'.pos = b.pos) : b.KeepsInput b' :=
  ⟨hbuf, hlen, hmode, hovr, by rw [hpos], by rw [hpos]; exact id⟩

theorem Block.KeepsInput.refl (b : Block) : b.KeepsInput b := .of_eq rfl rfl rfl rfl rfl

theorem Block.KeepsInput.raise (b : Block) (e : DecodeError) : b.KeepsInput (b.raise e) := .of_eq rfl rfl rfl rfl rfl

theorem Block.KeepsInput.trans {b c d : Block} (h : b.KeepsInput c) (h' : c.KeepsInput d) : b.KeepsInput d where
  buf := h'.buf.trans h.buf
  len := h'.len.trans h.len
  mode := h'.mode.trans h.mode
  ovr := h'.ovr.trans h.ovr
  pos_le := h.pos_le.trans h'.pos_le
  inside hp := h.len ▸ h'.inside (h.len ▸ h.inside hp)

theorem Block.KeepsInput.cursorOk {b b' : Block} (h : b.KeepsInput b') (hb : b.cursorOk) : b'.cursorOk := by
  rw [Block.cursorOk, h.len]
  exact ⟨h.inside hb.1, hb.2⟩

/-- A read that finds its bits moves the cursor on, and not past `LEN` (rule R141). -/
theorem Block.KeepsInput.advance {b : Block} {n : Nat} (hp : b.pos.toNat ≤ b.len.toNat) (hn : n ≤ remaining b) :
    b.KeepsInput (b.advance n) where
  buf := rfl
  len := rfl
  mode := rfl
  ovr := rfl
  pos_le := by rw [advance_pos_toNat hp hn]; omega
  inside _ := by rw [advance_pos_toNat hp hn]; unfold remaining at hn; omega

theorem fieldStep_keepsInput {s t : State} {n : Nat} {w : Nat → Block → Block} (h : fieldStep n w s = .next t)
    (hw : ∀ v (b : Block), b.KeepsInput (w v b)) : s.block.KeepsInput t.block := by
  obtain ⟨hp, hn, rfl⟩ | ⟨-, -, rfl⟩ := fieldStep_next h
  · exact (Block.KeepsInput.advance hp hn).trans (hw _ _)
  · exact .raise _ _

/-- All a cursor operation on its own that goes on can have done (rules R141, R142): the read, or error entry. -/
theorem exec_cursorOp_next {i : Instr} {s t : State} {n : Nat} (hi : i = .take n ∨ i = .takeUint n)
    (h : exec i s = .next t) :
    (s.block.pos.toNat ≤ s.block.len.toNat ∧ n ≤ remaining s.block ∧
      ∃ v, t = (s.setBlock (s.block.advance n)).setTaken v) ∨
    t = s.setBlock (s.block.raise (.insufficientBits n (remaining s.block))) := by
  obtain rfl | rfl := hi
  · rw [exec] at h
    obtain ⟨hp, hn, -, e⟩ | ⟨-, -, e⟩ | ⟨-, e⟩ | ⟨-, e⟩ := take_cases n s.block <;> rw [execTake, e] at h <;> cases h
    · exact .inl ⟨hp, hn, _, rfl⟩
    · exact .inr rfl
  · rw [exec] at h
    obtain ⟨hp, hn, -, e⟩ | ⟨-, -, e⟩ | ⟨-, e⟩ | ⟨-, e⟩ := takeUint_cases n s.block <;> rw [execTakeUint, e] at h <;>
      cases h
    · exact .inl ⟨hp, hn, _, rfl⟩
    · exact .inr rfl

theorem execSClassify_unmapped {s : State} (h : lookupSensor s.sensorMap s.block.fArb = none) :
    execSClassify s = .next (s.setBlock (s.block.raise (.unknownArbitrationId s.block.fArb.toNat))) := by
  simp [execSClassify, h]

theorem execSClassify_mapped {s : State} {ty : SensorType} (h : lookupSensor s.sensorMap s.block.fArb = some ty) :
    execSClassify s = .next (s.setBlock ({ s.block with sensor := sensorCode ty }.goto Fsm.rtr)) := by
  simp [execSClassify, h]

/-- All S_CLASSIFY can do (rule R163). -/
theorem execSClassify_next {s t : State} (h : execSClassify s = .next t) :
    t = s.setBlock (s.block.raise (.unknownArbitrationId s.block.fArb.toNat)) ∨
    ∃ ty, t = s.setBlock ({ s.block with sensor := sensorCode ty }.goto Fsm.rtr) := by
  cases hl : lookupSensor s.sensorMap s.block.fArb with
  | none => rw [execSClassify_unmapped hl] at h; cases h; exact .inl rfl
  | some ty => rw [execSClassify_mapped hl] at h; cases h; exact .inr ⟨ty, rfl⟩

theorem exec_keepsInput {i : Instr} {s t : State} (h : exec i s = .next t)
    (hi : ∀ l c, i ≠ .decode l c ∧ i ≠ .decodeFull l c) (hr : i ≠ .reservedCmd) : s.block.KeepsInput t.block := by
  cases i with
  | decode l c => exact absurd rfl (hi l c).1
  | decodeFull l c => exact absurd rfl (hi l c).2
  | reservedCmd => exact absurd rfl hr
  | nop | normText | normBytes | normInt | sIdle | sDone | sError => cases h; exact .refl _
  | sSrr => cases h; exact .of_eq rfl rfl rfl rfl rfl
  | take n | takeUint n =>
    obtain ⟨hp, hn, _, rfl⟩ | rfl := exec_cursorOp_next (n := n) (by simp) h
    · exact .advance hp hn
    · exact .raise _ _
  | sClassify =>
    obtain rfl | ⟨_, rfl⟩ := execSClassify_next h
    · exact .raise _ _
    · exact .of_eq rfl rfl rfl rfl rfl
  | sArbId | sRtr | sExtId | sRtr2 | sReserved | sDlc | sData | sCrc | sAck | sEof | sIfs =>
    exact fieldStep_keepsInput h fun _ _ => .of_eq rfl rfl rfl rfl rfl
  | sSof | sIde | sCrcDel | sAckDel =>
    refine fieldStep_keepsInput h fun v b => ?_
    dsimp only
    split
    · exact .of_eq rfl rfl rfl rfl rfl
    · exact .of_eq rfl rfl rfl rfl rfl

theorem fieldStep_setBlock {s t : State} {n : Nat} {w : Nat → Block → Block} (h : fieldStep n w s = .next t) :
    t = s.setBlock t.block := by
  obtain ⟨-, -, rfl⟩ | ⟨-, -, rfl⟩ := fieldStep_next h <;> rfl

/-- Beside the block an instruction writes at most one result of the host's: an input shape the normalizer's, and a
cursor operation on its own the value it took (rules R120, R141, R142). -/
theorem exec_besideBlock {i : Instr} {s t : State} (h : exec i s = .next t) :
    t = s.setBlock t.block ∨
    (((∃ x, i = .normText x) ∨ (∃ x, i = .normBytes x) ∨ ∃ x, i = .normInt x) ∧ ∃ r, t = s.setNorm r) ∨
    ((∃ n, i = .take n ∨ i = .takeUint n) ∧ ∃ v, t = (s.setBlock t.block).setTaken v) := by
  cases i with
  | normText x => exact .inr (.inl ⟨.inl ⟨x, rfl⟩, _, (Host.Outcome.next.inj h).symm⟩)
  | normBytes x => exact .inr (.inl ⟨.inr (.inl ⟨x, rfl⟩), _, (Host.Outcome.next.inj h).symm⟩)
  | normInt x => exact .inr (.inl ⟨.inr (.inr ⟨x, rfl⟩), _, (Host.Outcome.next.inj h).symm⟩)
  | take n | takeUint n =>
    obtain ⟨-, -, v, rfl⟩ | rfl := exec_cursorOp_next (n := n) (by simp) h
    · exact .inr (.inr ⟨⟨n, by simp⟩, v, rfl⟩)
    · exact .inl rfl
  | sClassify =>
    obtain rfl | ⟨_, rfl⟩ := execSClassify_next h
    · exact .inl rfl
    · exact .inl rfl
  | nop | decode | decodeFull | reservedCmd | sIdle | sSrr | sDone | sError => cases h; exact .inl rfl
  | sSof | sArbId | sRtr | sIde | sExtId | sRtr2 | sReserved | sDlc => exact .inl (fieldStep_setBlock h)
  | sData | sCrc | sCrcDel | sAck | sAckDel | sEof | sIfs => exact .inl (fieldStep_setBlock h)

/-- No instruction writes the table, the host's program, the schedule or the last call's result. -/
theorem exec_keepsHost {i : Instr} {s t : State} (h : exec i s = .next t) :
    t.sensorMap = s.sensorMap ∧ t.program = s.program ∧ t.turns = s.turns ∧ t.returned = s.returned := by
  obtain e | ⟨-, _, e⟩ | ⟨-, _, e⟩ := exec_besideBlock h <;> rw [e] <;> exact ⟨rfl, rfl, rfl, rfl⟩

/-- Settles O42: what an instruction keeps of the input, and what it writes beside the block. -/
theorem onlyCommandsWriteTheBuffer : Obligations.OnlyCommandsWriteTheBuffer := by
  intro i s t h
  refine ⟨exec_keepsHost h, fun hi => ?input, fun ht hb hint => ?norm, fun ht htu => ?taken⟩
  case input =>
    by_cases hr : i = .reservedCmd
    · subst hr; cases h; exact ⟨rfl, rfl, rfl⟩
    · have hk := exec_keepsInput h hi hr
      exact ⟨hk.buf, hk.len, hk.mode⟩
  case norm =>
    obtain e | ⟨⟨x, rfl⟩ | ⟨x, rfl⟩ | ⟨x, rfl⟩, -⟩ | ⟨-, _, e⟩ := exec_besideBlock h
    · rw [e]; rfl
    · exact absurd rfl (ht x)
    · exact absurd rfl (hb x)
    · exact absurd rfl (hint x)
    · rw [e]; rfl
  case taken =>
    obtain e | ⟨-, _, e⟩ | ⟨⟨n, rfl | rfl⟩, -⟩ := exec_besideBlock h
    · rw [e]; rfl
    · rw [e]; rfl
    · exact absurd rfl (ht n)
    · exact absurd rfl (htu n)

/-- Settles O44: each instruction's own write, field by field. -/
theorem registersHaveTheirOwnWriters : Obligations.RegistersHaveTheirOwnWriters := by
  intro i s t h hi
  cases i with
  | decode l c => exact absurd rfl (hi l c).1
  | decodeFull l c => exact absurd rfl (hi l c).2
  | nop | reservedCmd | normText | normBytes | normInt | sIdle | sDone | sError | sSrr => cases h; simp
  | take n | takeUint n => obtain ⟨-, -, _, rfl⟩ | rfl := exec_cursorOp_next (n := n) (by simp) h <;> simp
  | sClassify => obtain rfl | ⟨_, rfl⟩ := execSClassify_next h <;> simp
  | sArbId | sRtr | sExtId | sRtr2 | sReserved | sDlc | sData | sCrc | sAck | sEof | sIfs =>
    obtain ⟨-, -, rfl⟩ | ⟨-, -, rfl⟩ := fieldStep_next h <;> simp
  | sSof | sIde | sCrcDel | sAckDel =>
    obtain ⟨-, -, rfl⟩ | ⟨-, -, rfl⟩ := fieldStep_next h
    · dsimp only; split <;> simp
    · simp

/-! ### What a step does to the table and the cursor -/

/-- Settles O45: the move keeps the table, and so does the instruction it runs. -/
theorem stepKeepsTheTable : Obligations.StepKeepsTheTable := by
  intro s t h
  obtain ⟨-, ⟨w, s', i, hm, -, he⟩ | ⟨w, s', hm, -, rfl⟩ | hm⟩ := step_next h
  · obtain ⟨-, hmap, -⟩ := move_run hm
    exact (exec_keepsHost he).1.trans hmap
  · obtain ⟨-, hmap, -⟩ := move_run hm
    exact hmap
  · obtain ⟨-, hmap, -⟩ := move_done hm
    exact hmap

theorem startDecode_cursorOk {b : Block} (h : b.cursorOk) (m : BitVec 1) (l : BitVec 8) (c : Cells) :
    (startDecode m l c b).cursorOk := by
  obtain ⟨-, hl, e⟩ | ⟨-, hl, e⟩ | ⟨-, e⟩ := startDecode_cases m l c b <;> rw [e]
  · simp [Block.cursorOk, hl]
  · simp [Block.cursorOk, Nat.not_le.mpr hl]
  · exact h

/-- Every instruction keeps the cursor in bounds (rules R23, R24). -/
theorem exec_keepsCursorOk {i : Instr} {s t : State} (hs : s.block.cursorOk) (h : exec i s = .next t) :
    t.block.cursorOk := by
  cases i with
  | decode l c | decodeFull l c => cases h; exact startDecode_cursorOk hs _ _ _
  | reservedCmd => cases h; exact hs
  | _ => exact (exec_keepsInput h (by simp) (by simp)).cursorOk hs

/-- Settles O50, by what the step does: run an instruction, advance the host's program, or reset. -/
theorem stepKeepsTheCursorInBounds : Obligations.StepKeepsTheCursorInBounds := by
  intro s t hs h
  obtain ⟨-, ⟨w, s', i, hm, -, he⟩ | ⟨w, s', hm, -, rfl⟩ | hm⟩ := step_next h
  · obtain ⟨hb, -⟩ := move_run hm
    exact exec_keepsCursorOk (by rwa [hb]) he
  · obtain ⟨hb, -⟩ := move_run hm
    rwa [State.setNorm_block, hb]
  · obtain ⟨hb | hb, -⟩ := move_done hm <;> rw [hb]
    · exact hs
    · decide

/-- Whether on a turn prescribed for it or by default, the block moves by the word in `STATE` (rule R181). -/
theorem move_block {s : State} (h : (∃ ts, s.turns = .block :: ts) ∨ (s.turns = [] ∧ s.block.enabled = true)) :
    ∃ s', move s = .run (.fsmState s.block.state) s' ∧ s'.block = s.block := by
  obtain ⟨ts, ht⟩ | ⟨ht, he⟩ := h
  · exact ⟨_, move_blockTurn ht, rfl⟩
  · exact ⟨_, move_noTurn_enabled ht he, rfl⟩

/-- A micro-step keeps the input and does not move the cursor back (rules R24, R70). -/
theorem microStep_keepsInput {code : BitVec 5} {i : Instr} {s t : State} (hd : decode (.fsmState code) = .ok i)
    (h : exec i s = .next t) : s.block.KeepsInput t.block := by
  have hword := encode_of_decodeFsmState hd
  refine exec_keepsInput h (fun l c => ⟨?_, ?_⟩) ?_ <;> rintro rfl <;> cases hword

/-- Settles O51: the block's word is the code in `STATE`, whose micro-step keeps the input. -/
theorem theWalkNeverMovesBack : Obligations.TheWalkNeverMovesBack := by
  intro s t _ hturn h
  obtain ⟨s₁, hm₁, hb⟩ := move_block hturn
  have hkeep : s.block.KeepsInput t.block := by
    obtain ⟨-, ⟨w, s', i, hm, hd, he⟩ | ⟨w, s', hm, -, rfl⟩ | hm⟩ := step_next h <;> rw [hm₁] at hm <;> cases hm
    · exact hb ▸ microStep_keepsInput hd he
    · exact hb ▸ .refl _
  exact ⟨hkeep.pos_le, hkeep.buf, hkeep.len⟩

/-! ### Reset and the overrun flag -/

/-- A reset turn puts the block at its reset values and leaves everything else (rule R260). -/
theorem step_resetTurn {s : State} {rest : List Turn} (hr : s.block.reservedValue = none)
    (ht : s.turns = .reset :: rest) : step s = .next { s with turns := rest, block := Block.reset } :=
  step_of_done hr (by simp [move, ht, resetMove, State.setTurns])

/-- Settles O6. The reset block is written out in the statement as `Block.reset` has it. -/
theorem resetSetsEveryRegister : Obligations.ResetSetsEveryRegister :=
  ⟨rfl, by decide, by decide, fun _ _ ht hr => step_resetTurn hr ht⟩

theorem quiescent_iff (b : Block) : b.quiescent = true ↔ b.state = 0#5 ∨ b.state = 18#5 ∨ b.state = 19#5 := by
  simp [Block.quiescent, or_assoc]

/-- An accepted command clears the overrun flag and a rejected one sets it (rule R32). -/
theorem startDecode_ovr (m : BitVec 1) (l : BitVec 8) (c : Cells) (b : Block) :
    (startDecode m l c b).ovr = if b.state = 0#5 ∨ b.state = 18#5 ∨ b.state = 19#5 then 0#1 else 1#1 := by
  simp only [← quiescent_iff]
  obtain ⟨hq, -, e⟩ | ⟨hq, -, e⟩ | ⟨hq, e⟩ := startDecode_cases m l c b <;> simp [e, hq]

/-- Settles O15: a decode command by its acceptance, and the rest by what it keeps of the input. -/
theorem overrunFlagWriters : Obligations.OverrunFlagWriters := by
  refine ⟨fun s t rest ht h => ?reset, fun i s t h => ⟨fun l c hi => ?decode, fun hi => ?reserved, fun hi hr => ?other⟩⟩
  case reset =>
    rw [step_resetTurn (step_next h).1 ht] at h
    cases h
    rfl
  case decode => obtain rfl | rfl := hi <;> cases h <;> exact startDecode_ovr _ _ _ _
  case reserved => subst hi; cases h; rfl
  case other => exact (exec_keepsInput h hi hr).ovr

/-! ### What a micro-step cannot see -/

/-- The block with another mode and another buffer. -/
def Block.withInput (b : Block) (m : BitVec 1) (c : Cells) : Block := { b with mode := m, buf := c }

/-- A cursor result whose block has another mode and another buffer. -/
def CursorResult.withInput {α : Type} (m : BitVec 1) (c : Cells) : CursorResult α → CursorResult α
  | .ok v b => .ok v (b.withInput m c)
  | .raised b => .raised (b.withInput m c)
  | .fault r => .fault r

/-- The state whose block has another mode and another buffer. -/
def State.withInput (s : State) (m : BitVec 1) (c : Cells) : State := s.setBlock (s.block.withInput m c)

@[simp] theorem Block.withInput_len (b : Block) (m : BitVec 1) (c : Cells) : (b.withInput m c).len = b.len := rfl
@[simp] theorem Block.withInput_pos (b : Block) (m : BitVec 1) (c : Cells) : (b.withInput m c).pos = b.pos := rfl
@[simp] theorem Block.withInput_buf (b : Block) (m : BitVec 1) (c : Cells) : (b.withInput m c).buf = c := rfl

@[simp] theorem remaining_withInput (b : Block) (m : BitVec 1) (c : Cells) :
    remaining (b.withInput m c) = remaining b := rfl

@[simp] theorem Block.advance_withInput (b : Block) (m : BitVec 1) (c : Cells) (n : Nat) :
    (b.withInput m c).advance n = (b.advance n).withInput m c := rfl

@[simp] theorem Block.raise_withInput (b : Block) (m : BitVec 1) (c : Cells) (e : DecodeError) :
    (b.withInput m c).raise e = (b.raise e).withInput m c := rfl

theorem slice_congr {c c' : Cells} {p n : Nat} (h : ∀ k, k < p + n → c.getLsbD k = c'.getLsbD k) :
    slice c p n = slice c' p n := by
  apply List.ext_getElem (by simp)
  intro k hk _
  rw [slice_length] at hk
  rw [slice_getElem, slice_getElem, h _ (by omega)]

section
variable {m : BitVec 1} {c : Cells}

/-- A read passes no cell at `LEN` or above (rule R60). -/
theorem readCells_withInput {b : Block} (hc : ∀ k, k < b.len.toNat → c.getLsbD k = b.buf.getLsbD k) (p n : Nat) :
    readCells (b.withInput m c) p n = readCells b p n := by
  by_cases h : b.len.toNat < p + n
  · simp [readCells, h]
  · have hcells : slice c p n = slice b.buf p n := slice_congr fun k hk => hc k (by omega)
    simp [readCells, hcells]

theorem take_withInput {b : Block} (hc : ∀ k, k < b.len.toNat → c.getLsbD k = b.buf.getLsbD k) (n : Nat) :
    take n (b.withInput m c) = (take n b).withInput m c := by
  by_cases h : b.len.toNat < b.pos.toNat
  · simp [take, CursorResult.withInput, h]
  by_cases hn : remaining b < n
  · simp [take, CursorResult.withInput, h, hn]
  cases hr : readCells b b.pos.toNat n <;>
    simp [take, CursorResult.withInput, h, hn, readCells_withInput hc, hr]

theorem takeUint_withInput {b : Block} (hc : ∀ k, k < b.len.toNat → c.getLsbD k = b.buf.getLsbD k) (n : Nat) :
    takeUint n (b.withInput m c) = (takeUint n b).withInput m c := by
  rw [takeUint, takeUint, take_withInput hc]
  cases take n b <;> rfl

theorem fieldStep_withInput {s t : State} {n : Nat} {w : Nat → Block → Block}
    (hc : ∀ k, k < s.block.len.toNat → c.getLsbD k = s.block.buf.getLsbD k) (h : fieldStep n w s = .next t)
    (hw : ∀ v (b : Block), w v (b.withInput m c) = (w v b).withInput m c) :
    fieldStep n w (s.withInput m c) = .next (t.withInput m c) := by
  have htake : takeUint n (s.withInput m c).block = (takeUint n s.block).withInput m c := takeUint_withInput hc n
  rw [fieldStep] at h ⊢
  rw [htake]
  cases hr : takeUint n s.block with
  | ok v b => rw [hr] at h; cases h; simp only [CursorResult.withInput, hw]; rfl
  | raised b => rw [hr] at h; cases h; rfl
  | fault r => rw [hr] at h; cases h

/-- A micro-step reads neither the mode nor a cell at `LEN` or above (rules R22, R26): over others it does the same. -/
theorem microStep_withInput {code : BitVec 5} {i : Instr} {s t : State} (hd : decode (.fsmState code) = .ok i)
    (hc : ∀ k, k < s.block.len.toNat → c.getLsbD k = s.block.buf.getLsbD k) (h : exec i s = .next t) :
    exec i (s.withInput m c) = .next (t.withInput m c) := by
  have hword := encode_of_decodeFsmState hd
  cases i with
  | nop | decode | decodeFull | reservedCmd | normText | normBytes | normInt | take | takeUint => cases hword
  | sIdle | sDone | sError | sSrr => cases h; rfl
  | sClassify =>
    rw [exec] at h ⊢
    cases hl : lookupSensor s.sensorMap s.block.fArb with
    | none => rw [execSClassify_unmapped hl] at h; cases h; exact execSClassify_unmapped hl
    | some ty => rw [execSClassify_mapped hl] at h; cases h; exact execSClassify_mapped hl
  | sArbId | sRtr | sExtId | sRtr2 | sReserved | sDlc | sData | sCrc | sAck | sEof | sIfs =>
    exact fieldStep_withInput hc h fun _ _ => rfl
  | sSof | sIde | sCrcDel | sAckDel =>
    refine fieldStep_withInput hc h fun v b => ?_
    dsimp only
    split <;> rfl

end

/-- Settles O46: the other mode, over the buffer that the micro-step keeps. -/
theorem modeDoesNotAffectTheWalk : Obligations.ModeDoesNotAffectTheWalk := by
  intro code i s t m hd h
  have hrun : exec i (s.withInput m s.block.buf) = .next (t.withInput m s.block.buf) :=
    microStep_withInput hd (fun _ _ => rfl) h
  have ht : t.withInput m s.block.buf = { t with block := { t.block with mode := m } } := by
    rw [← (microStep_keepsInput hd h).buf]; rfl
  exact hrun.trans (congrArg _ ht)

/-- Settles O47: the other buffer, under the mode that the micro-step keeps. -/
theorem cellsPastTheLengthAreNeverRead : Obligations.CellsPastTheLengthAreNeverRead := by
  intro code i s t c hd hc h
  have hrun : exec i (s.withInput s.block.mode c) = .next (t.withInput s.block.mode c) := microStep_withInput hd hc h
  have ht : t.withInput s.block.mode c = { t with block := { t.block with buf := c } } := by
    rw [← (microStep_keepsInput hd h).mode]; rfl
  exact hrun.trans (congrArg _ ht)

/-! ### The invariant that every step keeps -/

/-- The block after reset is legal (rules R38, R39). -/
theorem inv_reset : Block.reset.Inv :=
  ⟨by decide, by decide, by decide, by decide, by decide, by decide, by decide, by decide⟩

/-- Settles O7: the reset block is legal, and the schedule is empty. -/
theorem resetStateIsLegal : Obligations.ResetStateIsLegal := ⟨inv_reset, fun _ => List.not_mem_nil⟩

/-- The registers of an error the block raises name it (rules R94, R95). -/
theorem errorRegisters_named {e : DecodeError} (he : e ≠ .malformedInput) :
    1 ≤ e.kind.toNat ∧ e.kind.toNat ≤ 4 ∧ (e.kind = 3#3 → 1 ≤ e.argA.toNat ∧ e.argA.toNat ≤ 3) := by
  cases e with
  | malformedInput => exact absurd rfl he
  | frameTooLong | insufficientBits | unknownArbitrationId => simp [DecodeError.kind]
  | invalidFixedBit f => cases f <;> simp [DecodeError.kind, DecodeError.argA, FixedField.code]

/-- Error entry leaves a legal block (rule R236): in ERROR nothing is owed to the walk. -/
theorem inv_raise {b : Block} {e : DecodeError} (he : e ≠ .malformedInput) (hcursor : b.cursorOk)
    (hsensor : b.sensor.toNat ≤ 5) (habsent : b.absentZero) : (b.raise e).Inv where
  stateOk := by simp
  cursor := hcursor
  sensorOk := hsensor
  error := ⟨fun _ => errorRegisters_named he, fun h => absurd rfl h⟩
  absent := habsent
  presence := by simp [Block.presenceOk]
  checked := by simp [Block.checkedOk]
  position h := by simp [Block.walking] at h

theorem inv_reject {b : Block} (h : b.Inv) : b.reject.Inv :=
  ⟨h.stateOk, h.cursor, h.sensorOk, h.error, h.absent, h.presence, h.checked, h.position⟩

/-- A decode command leaves a legal block: the walk at SOF with everything cleared, ERROR, or a rejection
(rules R140, R212 to R214). -/
theorem inv_startDecode {b : Block} (h : b.Inv) (m : BitVec 1) (l : BitVec 8) (c : Cells) :
    (startDecode m l c b).Inv := by
  have hcursor := startDecode_cursorOk h.cursor m l c
  obtain ⟨-, hl, e⟩ | ⟨-, hl, e⟩ | ⟨-, e⟩ := startDecode_cases m l c b <;> rw [e] at hcursor ⊢
  · exact ⟨by simp, hcursor, by simp, by simp [Block.errorOk], by simp [Block.absentZero], by simp [Block.presenceOk],
      by simp [Block.checkedOk], by simp [expectedPos]⟩
  · exact inv_raise (by simp) hcursor (by simp) (by simp [Block.absentZero])
  · exact inv_reject h

/-- `b'` stands where a read of `n` bits from `b` leaves the cursor, with the classification and the error registers of
`b`: what the micro-steps that read a field and go on have in common. -/
structure Block.ReadTo (b : Block) (n : Nat) (b' : Block) : Prop where
  len     : b'.len = b.len
  pos     : b'.pos = (b.advance n).pos
  sensor  : b'.sensor = b.sensor
  errKind : b'.errKind = b.errKind
  errA    : b'.errA = b.errA
  errB    : b'.errB = b.errB

theorem advance_cursorOk {b : Block} {n : Nat} (h : b.cursorOk) (hn : n ≤ remaining b) : (b.advance n).cursorOk :=
  (Block.KeepsInput.advance h.1 hn).cursorOk h

/-- The error registers stay 0 from one `STATE` outside ERROR to the next. -/
theorem errorOk_of_live {b b' : Block} (h : b.errorOk) (hlive : b.state ≠ Fsm.error) (hlive' : b'.state ≠ Fsm.error)
    (hkind : b'.errKind = b.errKind) (ha : b'.errA = b.errA) (hb : b'.errB = b.errB) : b'.errorOk := by
  obtain ⟨hkind₀, ha₀, hb₀⟩ := h.2 hlive
  exact ⟨fun he => absurd he hlive', fun _ => ⟨hkind.trans hkind₀, ha.trans ha₀, hb.trans hb₀⟩⟩

theorem Block.walking.ne_error {b : Block} (h : b.walking) : b.state ≠ Fsm.error := by
  intro he
  simp [Block.walking, he] at h

/-- After a field is read what remains to show is the part of the invariant that depends on `STATE`. -/
theorem inv_of_readTo {b b' : Block} {n : Nat} (h : b.Inv) (hn : n ≤ remaining b) (hr : b.ReadTo n b')
    (hwalk : b.walking) (hwalk' : b'.walking) (habsent : b'.absentZero) (hpresence : b'.presenceOk)
    (hchecked : b'.checkedOk) (hpos : expectedPos b' = expectedPos b + n) : b'.Inv where
  stateOk := hwalk'.2.trans (by decide)
  cursor := by
    rw [Block.cursorOk, hr.pos, hr.len]
    exact advance_cursorOk h.cursor hn
  sensorOk := hr.sensor ▸ h.sensorOk
  error := errorOk_of_live h.error hwalk.ne_error hwalk'.ne_error hr.errKind hr.errA hr.errB
  absent := habsent
  presence := hpresence
  checked := hchecked
  position _ := by rw [hr.pos, advance_pos_toNat h.cursor.1 hn, h.position hwalk, hpos]

theorem fieldStep_inv {s t : State} {n : Nat} {w : Nat → Block → Block} (h : s.block.Inv)
    (hs : fieldStep n w s = .next t)
    (hw : ∀ v, v < 2 ^ n → n ≤ remaining s.block → (w v (s.block.advance n)).Inv) : t.block.Inv := by
  obtain ⟨-, hn, rfl⟩ | ⟨-, -, rfl⟩ := fieldStep_next hs
  · exact hw _ (uint_slice_lt _ _ _) hn
  · exact inv_raise (by simp) h.cursor h.sensorOk h.absent

section
variable {s t : State}

/-- S_SOF: a 0 is recorded as the checked bit, and a 1 is an error (rule R161). -/
theorem execSSof_inv (h : s.block.Inv) (hc : s.block.state = Fsm.sof) (hs : execSSof s = .next t) : t.block.Inv := by
  have hwalk : s.block.walking := by simp [Block.walking, hc]
  refine fieldStep_inv h hs fun v _ hn => ?_
  dsimp only
  split
  case isTrue => exact inv_raise (by simp) (advance_cursorOk h.cursor hn) h.sensorOk h.absent
  case isFalse hv =>
    refine inv_of_readTo h hn ⟨rfl, rfl, rfl, rfl, rfl, rfl⟩ hwalk (by simp [Block.walking]) h.absent ?_ ?_ ?_
    · simpa [Block.presenceOk, hc] using h.presence
    · simp [Block.checkedOk, not_not.mp hv]
    · simp [expectedPos, hc]

/-- S_CLASSIFY: the code of a type is a classification, and an unmapped ID is an error (rules R30, R163). -/
theorem execSClassify_inv (h : s.block.Inv) (hc : s.block.state = Fsm.classify) (hs : execSClassify s = .next t) :
    t.block.Inv := by
  have hwalk : s.block.walking := by simp [Block.walking, hc]
  obtain rfl | ⟨ty, rfl⟩ := execSClassify_next hs
  · exact inv_raise (by simp) h.cursor h.sensorOk h.absent
  · have hcode : 1 ≤ (sensorCode ty).toNat ∧ (sensorCode ty).toNat ≤ 5 := by cases ty <;> decide
    refine ⟨by simp, h.cursor, hcode.2, errorOk_of_live h.error hwalk.ne_error (by simp) rfl rfl rfl, h.absent,
      ?_, ?_, ?_⟩
    · simpa [Block.presenceOk, hc] using h.presence
    · simpa [Block.checkedOk, hc, hcode.1] using h.checked
    · simpa [expectedPos, Block.walking, hc] using h.position

/-- S_IDE: 1 enters the extended branch, and 0 leaves both optional fields absent (rule R165). -/
theorem execSIde_inv (h : s.block.Inv) (hc : s.block.state = Fsm.ide) (hs : execSIde s = .next t) : t.block.Inv := by
  have hwalk : s.block.walking := by simp [Block.walking, hc]
  obtain ⟨hide, -⟩ := h.presence
  obtain ⟨hsrrV, hextV⟩ := hide (by simp [hc])
  refine fieldStep_inv h hs fun v hv hn => ?_
  dsimp only
  split
  case isTrue hone =>
    refine inv_of_readTo h hn ⟨rfl, rfl, rfl, rfl, rfl, rfl⟩ hwalk (by simp [Block.walking]) h.absent ?_ ?_ ?_
    · simp [Block.presenceOk, hone, hsrrV, hextV]
    · simpa [Block.checkedOk, hc] using h.checked
    · simp [expectedPos, hc]
  case isFalse hone =>
    have hzero : v = 0 := by simp at hv; omega
    refine inv_of_readTo h hn ⟨rfl, rfl, rfl, rfl, rfl, rfl⟩ hwalk (by simp [Block.walking]) ?_ ?_ ?_ ?_
    · exact ⟨fun _ => h.absent.1 hsrrV, fun _ => h.absent.2 hextV⟩
    · simp [Block.presenceOk, hzero]
    · simpa [Block.checkedOk, hc] using h.checked
    · simp [expectedPos, extraBits, hc, hzero]

/-- S_SRR: the substitute bit is present, and no bit is read (rule R166). -/
theorem execSSrr_inv (h : s.block.Inv) (hc : s.block.state = Fsm.srr) (hs : execSSrr s = .next t) : t.block.Inv := by
  have hwalk : s.block.walking := by simp [Block.walking, hc]
  obtain ⟨-, hsrr, -⟩ := h.presence
  obtain ⟨hide, -, hextV⟩ := hsrr (by simp [hc])
  cases hs
  refine ⟨by simp, h.cursor, h.sensorOk, errorOk_of_live h.error hwalk.ne_error (by simp) rfl rfl rfl, ?_, ?_, ?_, ?_⟩
  · exact ⟨by simp, h.absent.2⟩
  · simp [Block.presenceOk, hide, hextV]
  · simpa [Block.checkedOk, hc] using h.checked
  · simpa [expectedPos, Block.walking, hc] using h.position

/-- S_EXT_ID: the extension is present (rule R167). -/
theorem execSExtId_inv (h : s.block.Inv) (hc : s.block.state = Fsm.extId) (hs : execSExtId s = .next t) :
    t.block.Inv := by
  obtain ⟨-, -, hextId, -⟩ := h.presence
  obtain ⟨hide, hsrrV, -⟩ := hextId (by simp [hc])
  refine fieldStep_inv h hs fun v _ hn => inv_of_readTo h hn ⟨rfl, rfl, rfl, rfl, rfl, rfl⟩
    (by simp [Block.walking, hc]) (by simp [Block.walking]) ?_ ?_ ?_ ?_
  · exact ⟨h.absent.1, by simp⟩
  · simp [Block.presenceOk, hide, hsrrV]
  · simpa [Block.checkedOk, hc] using h.checked
  · simp [expectedPos, hc]

/-- S_RTR2: the last field of the extended branch, which has the bits of rule R81 more than the standard one. -/
theorem execSRtr2_inv (h : s.block.Inv) (hc : s.block.state = Fsm.rtr2) (hs : execSRtr2 s = .next t) :
    t.block.Inv := by
  obtain ⟨-, -, -, hrtr2, -⟩ := h.presence
  obtain ⟨hide, hsrrV, hextV⟩ := hrtr2 (by simp [hc])
  refine fieldStep_inv h hs fun v _ hn => inv_of_readTo h hn ⟨rfl, rfl, rfl, rfl, rfl, rfl⟩
    (by simp [Block.walking, hc]) (by simp [Block.walking]) h.absent ?_ ?_ ?_
  · simp [Block.presenceOk, hide, hsrrV, hextV]
  · simpa [Block.checkedOk, hc] using h.checked
  · simp [expectedPos, extraBits, hc, hide]

/-- S_DATA: the data is below the width that the DLC gives (rule R171). -/
theorem execSData_inv (h : s.block.Inv) (hc : s.block.state = Fsm.data) (hs : execSData s = .next t) :
    t.block.Inv := by
  refine fieldStep_inv h hs fun v hv hn => inv_of_readTo h hn ⟨rfl, rfl, rfl, rfl, rfl, rfl⟩
    (by simp [Block.walking, hc]) (by simp [Block.walking]) h.absent ?_ ?_ ?_
  · simpa [Block.presenceOk, hc] using h.presence
  · have hdata : (BitVec.ofNat 120 v).toNat < 2 ^ dataWidth s.block := (Nat.mod_le _ _).trans_lt hv
    obtain ⟨hsof, hsensor, -⟩ := h.checked
    exact ⟨fun _ => hsof (by simp [hc]), fun _ => hsensor (by simp [hc]), fun _ => hdata, by simp, by simp⟩
  · simp [expectedPos, extraBits, dataWidth, hc]

/-- S_CRC_DEL and S_ACK_DEL: a 1 is recorded as the checked bit, and a 0 is an error (rules R173, R175). -/
theorem delimiter_inv {i : Instr} (h : s.block.Inv) (hword : encode i = .fsmState s.block.state)
    (hi : i = .sCrcDel ∨ i = .sAckDel) (hs : exec i s = .next t) : t.block.Inv := by
  obtain rfl | rfl := hi
  all_goals
    have hc := (CodeWord.fsmState.inj hword).symm
    refine fieldStep_inv h hs fun v _ hn => ?_
    dsimp only
    split
    case isTrue => exact inv_raise (by simp) (advance_cursorOk h.cursor hn) h.sensorOk h.absent
    case isFalse hv =>
      refine inv_of_readTo h hn ⟨rfl, rfl, rfl, rfl, rfl, rfl⟩ (by simp [Block.walking, hc]) (by simp [Block.walking])
        h.absent ?_ ?_ ?_
      · simpa [Block.presenceOk, hc] using h.presence
      · simpa [Block.checkedOk, dataWidth, hc, not_not.mp hv] using h.checked
      · simp [expectedPos, extraBits, dataWidth, hc]; omega

/-- The states that record a field the invariant does not speak of: only the cursor and `STATE` matter. -/
theorem uncheckedField_inv {i : Instr} (h : s.block.Inv) (hword : encode i = .fsmState s.block.state)
    (hi : i = .sArbId ∨ i = .sRtr ∨ i = .sReserved ∨ i = .sDlc ∨ i = .sCrc ∨ i = .sAck ∨ i = .sEof ∨ i = .sIfs)
    (hs : exec i s = .next t) : t.block.Inv := by
  obtain rfl | rfl | rfl | rfl | rfl | rfl | rfl | rfl := hi
  all_goals
    have hc := (CodeWord.fsmState.inj hword).symm
    refine fieldStep_inv h hs fun v _ hn => inv_of_readTo h hn ⟨rfl, rfl, rfl, rfl, rfl, rfl⟩
      (by simp [Block.walking, hc]) (by simp [Block.walking]) h.absent ?_ ?_ ?_
    · simpa [Block.presenceOk, hc] using h.presence
    · simpa [Block.checkedOk, dataWidth, hc] using h.checked
    · simp [expectedPos, extraBits, dataWidth, hc] <;> omega

/-- The micro-step of the code in `STATE` leaves a legal block legal. -/
theorem microStep_inv {i : Instr} (h : s.block.Inv) (hword : encode i = .fsmState s.block.state)
    (hs : exec i s = .next t) : t.block.Inv := by
  have hc : ∀ c, encode i = .fsmState c → s.block.state = c := fun c he =>
    CodeWord.fsmState.inj (hword.symm.trans he)
  cases i with
  | nop | decode | decodeFull | reservedCmd | normText | normBytes | normInt | take | takeUint => cases hword
  | sIdle | sDone | sError => cases hs; exact h
  | sSof => exact execSSof_inv h (hc _ rfl) hs
  | sClassify => exact execSClassify_inv h (hc _ rfl) hs
  | sIde => exact execSIde_inv h (hc _ rfl) hs
  | sSrr => exact execSSrr_inv h (hc _ rfl) hs
  | sExtId => exact execSExtId_inv h (hc _ rfl) hs
  | sRtr2 => exact execSRtr2_inv h (hc _ rfl) hs
  | sData => exact execSData_inv h (hc _ rfl) hs
  | sCrcDel | sAckDel => exact delimiter_inv h hword (by simp) hs
  | sArbId | sRtr | sReserved | sDlc | sCrc | sAck | sEof | sIfs => exact uncheckedField_inv h hword (by simp) hs

/-- A command or a message leaves a legal block legal, in every state (rules R120, R211 to R214). -/
theorem hostInstr_inv {w : CodeWord} {i : Instr} (hw : w.format = .hostCmd ∨ w.format = .inputShape)
    (hd : decode w = .ok i) (h : s.block.Inv) (hs : exec i s = .next t) : t.block.Inv := by
  cases w with
  | hostCmd cmd l c =>
    cases hd
    unfold decodeHostCmd at hs
    split_ifs at hs <;> cases hs
    · exact h
    · exact inv_startDecode h _ _ _
    · exact inv_startDecode h _ _ _
    · exact inv_reject h
  | inputShape tag raw =>
    rw [decode, decodeInputShape] at hd
    split_ifs at hd
    all_goals
      cases hd
      cases hs
      exact h
  | cursorOp | fsmState => simp [CodeWord.format] at hw

end

/-- Settles O48, by who moves: the host's words, the block's micro-step and reset each leave a legal block, and with no
turn for the cursor there is no other word. -/
theorem stepKeepsLegalStates : Obligations.StepKeepsLegalStates := by
  intro s t h hs
  have hports : ∀ {ts : List Turn}, ts = s.turns.tail → ∀ w, Turn.cursor w ∉ ts := fun hts w hmem =>
    h.ports w (List.mem_of_mem_tail (hts ▸ hmem))
  obtain ⟨-, ⟨w, s', i, hm, hd, he⟩ | ⟨w, s', hm, -, rfl⟩ | hm⟩ := step_next hs
  · obtain ⟨hb, -, hts, hword⟩ := move_run hm
    have hinv : s'.block.Inv := hb ▸ h.block
    obtain ⟨-, -, hturns, -⟩ := exec_keepsHost he
    refine ⟨?_, hports (hturns.trans hts)⟩
    obtain hw | hw | rfl | ⟨c, -, hc⟩ := hword
    · exact hostInstr_inv (.inl hw) hd hinv he
    · exact hostInstr_inv (.inr hw) hd hinv he
    · exact microStep_inv hinv (hb ▸ encode_of_decodeFsmState hd) he
    · exact absurd hc (h.ports c)
  · obtain ⟨hb, -, hts, -⟩ := move_run hm
    exact ⟨hb ▸ h.block, hports hts⟩
  · obtain ⟨hb | hb, -, hts⟩ := move_done hm
    · exact ⟨hb ▸ h.block, hports hts⟩
    · exact ⟨hb ▸ inv_reset, hports hts⟩

/-- Settles O52: the invariant at the code of DONE. -/
theorem doneHoldsAWholeFrame : Obligations.DoneHoldsAWholeFrame := by
  intro b h
  refine ⟨h.cursor, ⟨?named, ?error⟩, fun hd => ?done⟩
  case named => exact fun hk => by_contra fun hne => hk (h.error.2 hne).1
  case error =>
    intro he hk
    have h1 := (h.error.1 he).1
    simp [hk] at h1
  case done =>
    obtain ⟨hsof, hsensor, hdata, hcrcd, hackd⟩ := h.checked
    obtain ⟨-, -, -, -, hpresence⟩ := h.presence
    obtain ⟨hsrrV, hextV⟩ := hpresence (by simp [hd])
    have hpos : b.pos.toNat = 47 + extraBits b + dataWidth b := by
      simpa [expectedPos, hd] using h.position (by simp [Block.walking, hd])
    refine ⟨hsensor (by simp [hd]), h.sensorOk, hsof (by simp [hd]), hcrcd (by simp [hd]), hackd (by simp [hd]), hsrrV,
      hextV, hdata (by simp [hd]), ?_⟩
    rw [hpos, extraBits, dataWidth, frameLength]
    split <;> omega

/-! ### The words on the ports -/

/-- A bit is the field of width 1 at its number. -/
theorem getLsbD_iff_extractLsb'_eq_one {w : Nat} (x : BitVec w) (k : Nat) :
    x.getLsbD k = true ↔ x.extractLsb' k 1 = 1#1 := by
  refine ⟨fun h => ?_, fun h => by simpa using congrArg (BitVec.getLsbD · 0) h⟩
  ext j hj
  obtain rfl : j = 0 := by omega
  simpa using h

theorem busyFlag_eq_one {b : Block} : b.busyFlag = 1#1 ↔ b.state ≠ 0#5 ∧ b.state ≠ 18#5 ∧ b.state ≠ 19#5 := by
  simp [Block.busyFlag, Block.quiescent, or_assoc]

/-- Settles O16: a field of the concatenation is found by dropping the fields below it and above it. -/
theorem statusWordFields : Obligations.StatusWordFields := by
  intro b
  simp (disch := decide) only [Block.status, getLsbD_iff_extractLsb'_eq_one, BitVec.extractLsb'_cast,
    BitVec.extractLsb'_append_eq_of_add_le, BitVec.extractLsb'_append_eq_of_le, Nat.reduceSub,
    BitVec.extractLsb'_eq_self, busyFlag_eq_one, doneFlag_eq_one, errFlag_eq_one, Fsm.done, Fsm.error, ne_eq, and_self]

/-- Settles O18, field by field as in STATUS: a presence bit is the field of width 1 at its number. -/
theorem framePortRoundTrip : Obligations.FramePortRoundTrip := by
  intro b
  simp (disch := decide) only [frameOf, Block.pack, Block.frame, getLsbD_iff_extractLsb'_eq_one,
    BitVec.extractLsb'_cast, BitVec.extractLsb'_append_eq_of_add_le, BitVec.extractLsb'_append_eq_of_le, Nat.reduceSub,
    BitVec.extractLsb'_eq_self]

end Sys2Proof.Machine

/-! PROOFS of the family 20_memory: the read of the buffer's cells. -/

namespace Sys2Proof.Machine

/-- The first cell read is the most significant bit (rule R63). -/
theorem uint_slice_testBit (buf : Cells) (p : Nat) {n k : Nat} (hk : k < n) :
    (uint (slice buf p n)).testBit (n - 1 - k) = buf.getLsbD (p + k) := by
  have hbit := uint_testBit (slice buf p n) k (by simpa)
  rwa [slice_getElem, slice_length] at hbit

/-- `MemRead` inside the sequence is the value of its cells (rule R60). -/
theorem memRead_inside {b : Block} {p n : Nat} (hlen : b.len.toNat ≤ Config.maxBits) (h : p + n ≤ b.len.toNat) :
    memRead b p n = .ok (uint (slice b.buf p n)) := by
  obtain ⟨-, -, hread⟩ | ⟨hpast, -⟩ | ⟨-, hcell, -⟩ := readCells_cases b p n
  · rw [memRead, hread]; rfl
  · exact absurd h (Nat.not_le.mpr hpast)
  · exact absurd (h.trans hlen) (Nat.not_le.mpr hcell)

/-- Settles O27: both reads stay inside the sequence, and the value is that of the cells. -/
theorem memReadReadsItsCells : Obligations.MemReadReadsItsCells := by
  intro b p n hlen h
  have hzero : memRead b p 0 = .ok 0 := memRead_inside hlen ((Nat.le_add_right p n).trans h)
  exact ⟨hzero, _, memRead_inside hlen h, uint_slice_lt _ _ _, fun _ hk => uint_slice_testBit _ _ hk⟩

end Sys2Proof.Machine

/-! PROOFS of the family 30_encoding: the words and what they decode to, the rows of the opcode table, the error
registers, the micro-steps as the walk, and the frames that the walk reads. -/

namespace Sys2Proof.Machine

/-! ### Words and instructions -/

/-- Bit 7 of a cursor word is the kind, and bits 6:0 are the count (rule R91). -/
theorem decodeCursorOp_append (kind : BitVec 1) (n : BitVec 7) :
    decodeCursorOp (kind ++ n) = if kind = 1#1 then .takeUint n.toNat else .take n.toNat := by
  have hkind : (kind ++ n).getLsbD 7 = true ↔ kind = 1#1 := by
    rw [getLsbD_iff_extractLsb'_eq_one, BitVec.extractLsb'_append_eq_of_le (by decide), BitVec.extractLsb'_eq_self]
  have hcount : (kind ++ n).extractLsb' 0 7 = n := by
    rw [BitVec.extractLsb'_append_eq_of_add_le (by decide), BitVec.extractLsb'_eq_self]
  simp only [decodeCursorOp, hkind, hcount]

/-- Settles O1, by the format of the instruction's word. -/
theorem decodeEncodeRoundTrip : Obligations.DecodeEncodeRoundTrip := by
  intro i hi
  cases i with
  | take n | takeUint n =>
    have hn : n < 128 := Nat.lt_succ_of_le (of_decide_eq_true hi)
    simp [encode, decode, decodeCursorOp_append, hn]
  | nop | decode | decodeFull | reservedCmd | normText | normBytes | normInt => rfl
  | sIdle | sSof | sArbId | sClassify | sRtr | sIde | sSrr | sExtId | sRtr2 | sReserved => rfl
  | sDlc | sData | sCrc | sCrcDel | sAck | sAckDel | sEof | sIfs | sDone | sError => rfl

/-- A cursor word is its kind bit in front of its count. -/
theorem cursorWord_eq_append (w : BitVec 8) : w = w.extractLsb' 7 1 ++ w.extractLsb' 0 7 := by
  rw [BitVec.extractLsb'_append_extractLsb'_eq_extractLsb' (show 7 = 0 + 7 from rfl), BitVec.extractLsb'_eq_self]

theorem encode_decodeCursorOp (w : BitVec 8) : encode (decodeCursorOp w) = .cursorOp w := by
  obtain ⟨kind, n, rfl⟩ : ∃ (kind : BitVec 1) (n : BitVec 7), w = kind ++ n := ⟨_, _, cursorWord_eq_append w⟩
  rw [decodeCursorOp_append]
  obtain rfl | rfl : kind = 0#1 ∨ kind = 1#1 := by decide +revert
  · simp [encode]
  · simp [encode]

theorem wellFormed_decodeCursorOp (w : BitVec 8) : (decodeCursorOp w).wellFormed = true := by
  have hn : (w.extractLsb' 0 7).toNat ≤ 127 := Nat.le_of_lt_succ (w.extractLsb' 0 7).isLt
  unfold decodeCursorOp
  split <;> exact decide_eq_true hn

/-- A command word decodes to a well-formed instruction with the word's own bits (rule R92). -/
theorem encode_decodeHostCmd (cmd : BitVec 2) (l : BitVec 8) (c : Cells) :
    (decodeHostCmd cmd l c).wellFormed = true ∧ (encode (decodeHostCmd cmd l c)).format = .hostCmd ∧
      (encode (decodeHostCmd cmd l c)).bits = cmd.toNat := by
  obtain rfl | rfl | rfl | rfl : cmd = 0b00#2 ∨ cmd = 0b01#2 ∨ cmd = 0b10#2 ∨ cmd = 0b11#2 := by decide +revert
  all_goals exact ⟨rfl, rfl, rfl⟩

/-- All a message's tag can name (rules R93, R127). -/
theorem decodeInputShape_cases (tag : BitVec 2) (raw : RawOperands) :
    (tag = 0b00#2 ∧ decodeInputShape tag raw = .ok (.normText raw.text)) ∨
    (tag = 0b01#2 ∧ decodeInputShape tag raw = .ok (.normBytes raw.bytes)) ∨
    (tag = 0b10#2 ∧ decodeInputShape tag raw = .ok (.normInt raw.int)) ∨
    (tag = 0b11#2 ∧ decodeInputShape tag raw = .error .reservedShape) := by
  obtain rfl | rfl | rfl | rfl : tag = 0b00#2 ∨ tag = 0b01#2 ∨ tag = 0b10#2 ∨ tag = 0b11#2 := by decide +revert
  all_goals simp [decodeInputShape]

/-- Settles O2, format by format. -/
theorem decodedWordReencodes : Obligations.DecodedWordReencodes := by
  intro w i hd
  cases w with
  | hostCmd cmd l c => cases hd; exact encode_decodeHostCmd cmd l c
  | inputShape tag raw =>
    rw [decode] at hd
    obtain ⟨rfl, e⟩ | ⟨rfl, e⟩ | ⟨rfl, e⟩ | ⟨rfl, e⟩ := decodeInputShape_cases tag raw <;> rw [e] at hd <;> cases hd
    all_goals exact ⟨rfl, rfl, rfl⟩
  | cursorOp w => cases hd; exact ⟨wellFormed_decodeCursorOp w, by rw [encode_decodeCursorOp]; exact ⟨rfl, rfl⟩⟩
  | fsmState code =>
    have hword := encode_of_decodeFsmState hd
    refine ⟨?_, by rw [hword], by rw [hword]⟩
    cases i with
    | take | takeUint => cases hword
    | _ => rfl

/-! ### Words and the rows of the opcode table -/

/-- The row with this number in the table's order (rule R101). -/
def rowOfIndex (k : Nat) : TableRow :=
  if k < 4 then ⟨.hostCmd, 0x3, k⟩
  else if k < 7 then ⟨.inputShape, 0x3, k - 4⟩
  else if k < 9 then ⟨.cursorOp, 0x80, 0x80 * (k - 7)⟩
  else ⟨.fsmState, 0x1f, k - 9⟩

theorem tableRow_eq_rowOfIndex (i : Instr) : tableRow i = rowOfIndex i.ctorIdx := by cases i <;> rfl

/-- The rows of a format have one mask. -/
theorem rowOfIndex_mask {k l : Nat} (hformat : (rowOfIndex k).format = (rowOfIndex l).format) :
    (rowOfIndex k).mask = (rowOfIndex l).mask := by
  unfold rowOfIndex at hformat ⊢
  split_ifs at hformat ⊢ <;> rfl

/-- Within a format the pattern tells the row. -/
theorem rowOfIndex_inj {k l : Nat} (hformat : (rowOfIndex k).format = (rowOfIndex l).format)
    (hpattern : (rowOfIndex k).pattern = (rowOfIndex l).pattern) : k = l := by
  unfold rowOfIndex at hformat hpattern
  split_ifs at hformat hpattern <;> dsimp only at hpattern <;> omega

/-- A number that matches the rows of two instructions of one format tells the operation. -/
theorem ctorIdx_eq_of_matches {i j : Instr} {w : Nat} (hformat : (tableRow i).format = (tableRow j).format)
    (hi : w &&& (tableRow i).mask = (tableRow i).pattern) (hj : w &&& (tableRow j).mask = (tableRow j).pattern) :
    i.ctorIdx = j.ctorIdx := by
  rw [tableRow_eq_rowOfIndex, tableRow_eq_rowOfIndex j] at hformat
  rw [tableRow_eq_rowOfIndex] at hi hj
  exact rowOfIndex_inj hformat (by rw [← hi, ← hj, rowOfIndex_mask hformat])

/-- The word of an instruction matches its row. -/
theorem encode_matches (i : Instr) : Laws.RowWord.Statement i := by
  cases i with
  | take n => exact Laws.RowWord.take n
  | takeUint n => exact Laws.RowWord.takeUint n
  | decode l c => exact Laws.RowWord.decode l c
  | decodeFull l c => exact Laws.RowWord.decodeFull l c
  | normText s => exact Laws.RowWord.normText s
  | normBytes b => exact Laws.RowWord.normBytes b
  | normInt v => exact Laws.RowWord.normInt v
  | _ => exact ⟨rfl, rfl⟩

/-- A word that decodes matches the row of what it decodes to. -/
theorem matches_of_decode {w : CodeWord} {i : Instr} (hd : decode w = .ok i) :
    w.format = (tableRow i).format ∧ w.bits &&& (tableRow i).mask = (tableRow i).pattern := by
  obtain ⟨-, hformat, hbits⟩ := decodedWordReencodes w i hd
  rw [← hformat, ← hbits]
  exact encode_matches i

theorem tableRow_inputShape {i : Instr} (h : (tableRow i).format = .inputShape) :
    (tableRow i).mask = 0x3 ∧ (tableRow i).pattern < 3 := by
  cases i with
  | normText | normBytes | normInt => simp [tableRow]
  | _ => cases h

theorem tableRow_fsmState {i : Instr} (h : (tableRow i).format = .fsmState) :
    (tableRow i).mask = 0x1f ∧ (tableRow i).pattern < 20 := by
  cases i with
  | nop | decode | decodeFull | reservedCmd | normText | normBytes | normInt | take | takeUint => cases h
  | _ => simp [tableRow]

theorem decodeFsmState_ok_iff (code : BitVec 5) : (∃ i, decodeFsmState code = .ok i) ↔ code.toNat < 20 := by
  have hok := decodeFsmState_isOk code
  cases hd : decodeFsmState code <;> simpa [hd, Except.isOk, Except.toBool, eq_comm] using hok

/-- A word that matches a row decodes: the words that do not are a message under the reserved tag and the reserved
`STATE` codes, of which the table has no row (rules R93, R180). -/
theorem decode_of_matches {w : CodeWord} {i : Instr} (hformat : w.format = (tableRow i).format)
    (hbits : w.bits &&& (tableRow i).mask = (tableRow i).pattern) : ∃ j, decode w = .ok j := by
  cases w with
  | hostCmd | cursorOp => exact ⟨_, rfl⟩
  | inputShape tag raw =>
    obtain ⟨hmask, hpattern⟩ := tableRow_inputShape hformat.symm
    rw [← hbits, hmask] at hpattern
    obtain ⟨-, e⟩ | ⟨-, e⟩ | ⟨-, e⟩ | ⟨rfl, -⟩ := decodeInputShape_cases tag raw
    · exact ⟨_, e⟩
    · exact ⟨_, e⟩
    · exact ⟨_, e⟩
    · exact absurd hpattern (show ¬ 3 &&& 3 < 3 by decide)
  | fsmState code =>
    obtain ⟨hmask, hpattern⟩ := tableRow_fsmState hformat.symm
    have hcode : code.toNat &&& 0x1f = code.toNat := by
      rw [show (0x1f : Nat) = 2 ^ 5 - 1 from rfl, Nat.and_two_pow_sub_one_eq_mod, Nat.mod_eq_of_lt code.isLt]
    rw [← hbits, hmask] at hpattern
    exact (decodeFsmState_ok_iff code).mpr (hcode ▸ hpattern)

/-- Settles O3: rows of one format differ in their patterns, and a word decodes exactly when it matches a row. -/
theorem noWordMatchesTwoRows : Obligations.NoWordMatchesTwoRows := by
  refine ⟨fun i j w hformat hi hj => ctorIdx_eq_of_matches hformat hi hj, fun w i => ⟨?_, fun ⟨hformat, hbits⟩ => ?_⟩⟩
  · rintro ⟨j, hd, hij⟩
    rw [tableRow_eq_rowOfIndex, ← hij, ← tableRow_eq_rowOfIndex]
    exact matches_of_decode hd
  · obtain ⟨j, hd⟩ := decode_of_matches hformat hbits
    obtain ⟨hformat', hbits'⟩ := matches_of_decode hd
    exact ⟨j, hd, ctorIdx_eq_of_matches (hformat'.symm.trans hformat) hbits' hbits⟩

/-- Settles O4: the decoder evaluated on the six words. -/
theorem writtenOutWordsDecode : Obligations.WrittenOutWordsDecode := ⟨rfl, rfl, rfl, rfl, rfl, rfl⟩

/-- Settles O5, format by format. -/
theorem onlyReservedWordsAreRejected : Obligations.OnlyReservedWordsAreRejected := by
  refine ⟨fun _ _ _ => ⟨_, rfl⟩, fun _ _ => rfl, fun _ => ⟨_, rfl⟩, fun tag raw => ?tag, fun _ => rfl,
    decodeFsmState_ok_iff, fun code hcode => ?code⟩
  case tag =>
    rw [decode]
    obtain ⟨rfl, e⟩ | ⟨rfl, e⟩ | ⟨rfl, e⟩ | ⟨rfl, e⟩ := decodeInputShape_cases tag raw <;> simp [e]
  case code =>
    have hall : ∀ c : BitVec 5, 20 ≤ c.toNat → decodeFsmState c = .error (.reservedState c) := by decide
    exact hall code hcode

/-- Settles O10: the host's move brings the message, and the decoder refuses its tag. -/
theorem reservedTagIsMalformedInput : Obligations.ReservedTagIsMalformedInput := by
  intro s raw ts ps hr ht hp
  exact step_of_reject hr ((move_hostTurn ht).trans (hostMove_normalize hp)) rfl

/-! ### The error registers -/

theorem fixedFieldOf_code (f : FixedField) : fixedFieldOf f.code = some f := by cases f <;> rfl

/-- Settles O19: each argument fits the register that holds it. -/
theorem errorRegistersRoundTrip : Obligations.ErrorRegistersRoundTrip := by
  refine ⟨fun n hn => ?tooLong, fun n k hn hk => ?short, fun f v hv => ?fixedBit, fun id hid => ?unknownId⟩
  case tooLong =>
    have hn : n < 2 ^ 16 := by omega
    simpa [errorOf, DecodeError.kind, DecodeError.argA] using hn
  case short =>
    have hn : n < 2 ^ 16 := by omega
    simpa [errorOf, DecodeError.kind, DecodeError.argA, DecodeError.argB] using And.intro hn hk
  case fixedBit =>
    have hfield : f.code % 2 ^ 16 = f.code := by cases f <;> rfl
    have hv : v < 2 ^ 8 := by omega
    simp only [errorOf, DecodeError.kind, DecodeError.argA, DecodeError.argB, BitVec.toNat_ofNat, hfield,
      fixedFieldOf_code, Nat.mod_eq_of_lt hv]
    rfl
  case unknownId =>
    have hid : id < 2 ^ 16 := by omega
    simpa [errorOf, DecodeError.kind, DecodeError.argA] using hid

/-! ### The micro-steps compute the walk -/

/-- What the block holds in DONE or in ERROR is the result (rules R95, R182). -/
def Block.Shows (b : Block) : WalkResult → Prop
  | .ok ty f => b.state = Fsm.done ∧ b.sensor = sensorCode ty ∧ b.frame = f
  | .error e => b.state = Fsm.error ∧ b.errKind = e.kind ∧ b.errA = e.argA ∧ b.errB = e.argB

theorem Block.raise_shows (b : Block) (e : DecodeError) : (b.raise e).Shows (.error e) := ⟨rfl, rfl, rfl, rfl⟩

/-- At most `k` steps lead to a block that shows the result, with the mode and the host's program as they were. -/
def State.Computes (s : State) (k : Nat) (r : WalkResult) : Prop :=
  ∃ j t, j ≤ k ∧ runSteps j s = .next t ∧ t.block.mode = s.block.mode ∧ t.program = s.program ∧ t.block.Shows r

theorem computes_of_shows {s : State} {r : WalkResult} (k : Nat) (h : s.block.Shows r) : s.Computes k r :=
  ⟨0, s, Nat.zero_le k, rfl, rfl, rfl, h⟩

theorem State.Computes.mono {s : State} {k k' : Nat} {r : WalkResult} (h : s.Computes k r) (hk : k ≤ k') :
    s.Computes k' r := by
  obtain ⟨j, t, hj, hrest⟩ := h
  exact ⟨j, t, hj.trans hk, hrest⟩

theorem State.Computes.of_step {s t : State} {k : Nat} {r : WalkResult} (hstep : step s = .next t)
    (hmode : t.block.mode = s.block.mode) (hprogram : t.program = s.program) (h : t.Computes k r) :
    s.Computes (k + 1) r := by
  obtain ⟨j, u, hj, hrun, hm, hp, hshows⟩ := h
  refine ⟨j + 1, u, by omega, ?_, hm.trans hmode, hp.trans hprogram, hshows⟩
  rw [runSteps, hstep]
  exact hrun

/-- A legal machine with no turn prescribed, whose block is at the `STATE` code `code` with the cursor at `cur` of the
sequence `bits`. -/
structure State.WalksAt (s : State) (bits : BitSeq) (cur : Nat) (code : BitVec 5) : Prop where
  inv   : s.Inv
  turns : s.turns = []
  bits  : slice s.block.buf 0 s.block.len.toNat = bits
  pos   : s.block.pos.toNat = cur
  state : s.block.state = code

section
variable {s t : State} {bits : BitSeq} {cur k : Nat} {code : BitVec 5} {i : Instr} {r : WalkResult}

/-- With no turn prescribed, the step in a state of the walk is that state's micro-step (rule R181). -/
theorem State.WalksAt.step_eq (h : s.WalksAt bits cur code) (hcode : 1 ≤ code.toNat ∧ code.toNat ≤ 17)
    (hd : decode (.fsmState code) = .ok i) : step s = exec i s := by
  have henabled : s.block.enabled = true := by simp [Block.enabled, h.state, hcode]
  exact step_of_run h.inv.block.reservedValue_eq_none (move_noTurn_enabled h.turns henabled) (h.state ▸ hd)

/-- A micro-step goes on in the same sequence, and what is computed after it is computed before it. -/
theorem State.WalksAt.computes_of_exec (h : s.WalksAt bits cur code) (hcode : 1 ≤ code.toNat ∧ code.toNat ≤ 17)
    (hd : decode (.fsmState code) = .ok i) (he : exec i s = .next t)
    (hnext : t.WalksAt bits t.block.pos.toNat t.block.state → t.Computes k r) : s.Computes (k + 1) r := by
  have hstep : step s = .next t := (h.step_eq hcode hd).trans he
  have hkeep := microStep_keepsInput hd he
  obtain ⟨-, hprogram, hturns, -⟩ := exec_keepsHost he
  have hbits : slice t.block.buf 0 t.block.len.toNat = bits := by rw [hkeep.buf, hkeep.len, h.bits]
  exact .of_step hstep hkeep.mode hprogram
    (hnext ⟨stepKeepsLegalStates s t h.inv hstep, hturns.trans h.turns, hbits, rfl, rfl⟩)

/-- A micro-step that reads no bit and goes on leaves the cursor where it is. -/
theorem State.WalksAt.computes_goto {b : Block} {after : BitVec 5} (h : s.WalksAt bits cur code)
    (hcode : 1 ≤ code.toNat ∧ code.toNat ≤ 17) (hd : decode (.fsmState code) = .ok i)
    (he : exec i s = .next (s.setBlock (b.goto after))) (hpos : b.pos = s.block.pos)
    (hnext : ∀ t, t = s.setBlock (b.goto after) → t.WalksAt bits cur after → t.Computes k r) :
    s.Computes (k + 1) r := by
  have hcur : b.pos.toNat = cur := by rw [hpos, h.pos]
  exact h.computes_of_exec hcode hd he fun ht => hnext _ rfl (hcur ▸ ht)

/-- A field-reading micro-step is a `take` of the walk: with the bits there, both go on with their value, and without
them both end in the same error. -/
theorem State.WalksAt.computes_takeAt {n : Nat} {w : Nat → Block → Block} {K : Nat → Nat → WalkResult}
    (h : s.WalksAt bits cur code) (hcode : 1 ≤ code.toNat ∧ code.toNat ≤ 17)
    (hd : decode (.fsmState code) = .ok i) (hi : exec i s = fieldStep n w s) (hpos : ∀ v b, (w v b).pos = b.pos)
    (hnext : ∀ v t, v < 2 ^ n → t = s.setBlock (w v (s.block.advance n)) →
      t.WalksAt bits (cur + n) t.block.state → t.Computes k (K v (cur + n))) :
    s.Computes (k + 1) (takeAt bits cur n K) := by
  have hcursor := h.inv.block.cursor
  have hremaining : bits.length - cur = remaining s.block := by rw [← h.bits, ← h.pos, slice_length]; rfl
  rw [takeAt, hremaining]
  by_cases hn : n ≤ remaining s.block
  · have hvalue : uint ((bits.drop cur).take n) = uint (slice s.block.buf s.block.pos.toNat n) := by
      rw [← h.bits, ← h.pos, ← slice_eq_drop_take _ _ _ _ (by unfold remaining at hn; omega)]
    have hafter : (w (uint (slice s.block.buf s.block.pos.toNat n)) (s.block.advance n)).pos.toNat = cur + n := by
      rw [hpos, advance_pos_toNat hcursor.1 hn, h.pos]
    rw [if_neg (Nat.not_lt.mpr hn), hvalue]
    exact h.computes_of_exec hcode hd (hi.trans (fieldStep_enough w hcursor hn)) fun ht =>
      hnext _ _ (uint_slice_lt _ _ _) rfl (hafter ▸ ht)
  · have hshort := Nat.not_le.mp hn
    rw [if_pos hshort]
    exact h.computes_of_exec hcode hd (hi.trans (fieldStep_short w hcursor.1 hshort)) fun _ =>
      computes_of_shows _ (Block.raise_shows _ _)

section
variable {n : Nat} {after : BitVec 5} {record : Nat → Block → Block} {K : Nat → Nat → WalkResult}

/-- A micro-step that records its field is a `take` of the walk. -/
theorem State.WalksAt.computes_record (h : s.WalksAt bits cur code) (hcode : 1 ≤ code.toNat ∧ code.toNat ≤ 17)
    (hd : decode (.fsmState code) = .ok i) (hi : exec i s = fieldStep n (fun v b => (record v b).goto after) s)
    (hpos : ∀ v b, (record v b).pos = b.pos)
    (hnext : ∀ v t, v < 2 ^ n → t = s.setBlock ((record v (s.block.advance n)).goto after) →
      t.WalksAt bits (cur + n) after → t.Computes k (K v (cur + n))) :
    s.Computes (k + 1) (takeAt bits cur n K) :=
  h.computes_takeAt hcode hd hi hpos fun v t hv ht hw =>
    hnext v t hv ht ((show t.block.state = after by rw [ht]; rfl) ▸ hw)

/-- A micro-step that checks its bit is a `take` of the walk that checks it: both go on with the fixed value, or both
end in the same error. -/
theorem State.WalksAt.computes_check {field : FixedField} {x : Nat} (h : s.WalksAt bits cur code)
    (hcode : 1 ≤ code.toNat ∧ code.toNat ≤ 17) (hd : decode (.fsmState code) = .ok i)
    (hi : exec i s = fieldStep 1 (fun v b =>
      if v ≠ x then (record v b).raise (.invalidFixedBit field v) else (record v b).goto after) s)
    (hpos : ∀ v b, (record v b).pos = b.pos)
    (hnext : ∀ t, t = s.setBlock ((record x (s.block.advance 1)).goto after) → t.WalksAt bits (cur + 1) after →
      t.Computes k (K x (cur + 1))) :
    s.Computes (k + 1) (takeAt bits cur 1 fun v cur =>
      if v ≠ x then .error (.invalidFixedBit field v) else K v cur) := by
  refine h.computes_takeAt hcode hd hi (fun v b => ?pos) fun v t _ ht hw => ?_
  case pos => split <;> exact hpos v b
  by_cases hv : v ≠ x
  · rw [if_pos hv, ht, if_pos hv]
    exact computes_of_shows _ (Block.raise_shows _ _)
  · obtain rfl := not_not.mp hv
    rw [if_neg hv] at ht ⊢
    exact hnext t ht ((show t.block.state = after by rw [ht]; rfl) ▸ hw)

end

/-- The frame with the fields from the reserved bit on left blank. -/
def Frame.head (f : Frame) : Frame :=
  { Frame.blank with sof := f.sof, arb := f.arb, rtr := f.rtr, ide := f.ide, srr := f.srr, ext := f.ext }

/-- The micro-steps from RESERVED on, one for each `take` of the walk. What the registers held of the fields they write
does not matter. -/
theorem State.WalksAt.computes_walkTail {ty : SensorType} {f : Frame} (h : s.WalksAt bits cur Fsm.reserved)
    (hsensor : s.block.sensor = sensorCode ty) (hf : s.block.frame.head = f.head) :
    s.Computes 9 (walkTail bits ty f cur) := by
  unfold walkTail
  refine h.computes_record (i := .sReserved) (by decide) rfl rfl (fun _ _ => rfl) fun rsv s₁ _ e₁ h => ?_
  refine h.computes_record (i := .sDlc) (by decide) rfl rfl (fun _ _ => rfl) fun dlc s₂ hdlc e₂ h => ?_
  have hwidth : dataWidth s₂.block = 8 * dlc := by
    rw [e₂]
    simpa [dataWidth] using hdlc
  rw [← hwidth]
  refine h.computes_record (i := .sData) (by decide) rfl rfl (fun _ _ => rfl) fun data s₃ _ e₃ h => ?_
  refine h.computes_record (i := .sCrc) (by decide) rfl rfl (fun _ _ => rfl) fun crc s₄ _ e₄ h => ?_
  refine h.computes_check (i := .sCrcDel) (by decide) rfl rfl (fun _ _ => rfl) fun s₅ e₅ h => ?_
  refine h.computes_record (i := .sAck) (by decide) rfl rfl (fun _ _ => rfl) fun ack s₆ _ e₆ h => ?_
  refine h.computes_check (i := .sAckDel) (by decide) rfl rfl (fun _ _ => rfl) fun s₇ e₇ h => ?_
  refine h.computes_record (i := .sEof) (by decide) rfl rfl (fun _ _ => rfl) fun eof s₈ _ e₈ h => ?_
  refine h.computes_record (i := .sIfs) (by decide) rfl rfl (fun _ _ => rfl) fun ifs s₉ _ e₉ h => ?_
  simp only [Frame.head, Block.frame, Frame.mk.injEq] at hf
  refine computes_of_shows _ ⟨h.state, ?_, ?_⟩
  · rw [e₉, e₈, e₇, e₆, e₅, e₄, e₃, e₂, e₁]
    exact hsensor
  · rw [e₉, e₈, e₇, e₆, e₅, e₄, e₃, e₂, e₁]
    simp [Block.frame, hf]

/-- The extended branch: the substitute bit, the extension, and the second RTR bit (rules R166 to R168). -/
theorem State.WalksAt.computes_extended {ty : SensorType} {f : Frame} (h : s.WalksAt bits cur Fsm.srr)
    (hsensor : s.block.sensor = sensorCode ty)
    (hf : (s.block.fSof, s.block.fArb, s.block.fRtr, s.block.fIde) = (f.sof, f.arb, f.rtr, f.ide)) :
    s.Computes 12 (takeAt bits cur 18 fun ext cur => takeAt bits cur 1 fun rtr2 cur =>
      walkTail bits ty
        { f with srr := some f.rtr, ext := some (BitVec.ofNat 18 ext), rtr := BitVec.ofNat 1 rtr2 } cur) := by
  refine h.computes_goto (i := .sSrr) (by decide) rfl rfl rfl fun s₁ e₁ h => ?_
  refine h.computes_record (i := .sExtId) (by decide) rfl rfl (fun _ _ => rfl) fun ext s₂ _ e₂ h => ?_
  refine h.computes_record (i := .sRtr2) (by decide) rfl rfl (fun _ _ => rfl) fun rtr2 s₃ _ e₃ h => ?_
  simp only [Prod.mk.injEq] at hf
  refine h.computes_walkTail ?_ ?_
  · rw [e₃, e₂, e₁]
    exact hsensor
  · rw [e₃, e₂, e₁]
    simp [Frame.head, Block.frame, hf]

/-- The micro-steps from SOF on, one for each `take` of the walk and one for each lookup and branch between them. -/
theorem State.WalksAt.computes_walk (h : s.WalksAt bits 0 Fsm.sof) : s.Computes 17 (walk bits s.sensorMap) := by
  unfold walk
  refine h.computes_check (i := .sSof) (by decide) rfl rfl (fun _ _ => rfl) fun s₁ e₁ h => ?_
  refine h.computes_record (i := .sArbId) (by decide) rfl rfl (fun _ _ => rfl) fun id s₂ hid e₂ h => ?_
  have hmap : s₂.sensorMap = s.sensorMap := by rw [e₂, e₁]; rfl
  have harb : s₂.block.fArb = BitVec.ofNat 11 id := by rw [e₂]; rfl
  rw [← hmap, ← harb]
  cases hl : lookupSensor s₂.sensorMap s₂.block.fArb with
  | none =>
    have hvalue : s₂.block.fArb.toNat = id := by rw [harb]; exact Nat.mod_eq_of_lt hid
    refine h.computes_of_exec (by decide) rfl (execSClassify_unmapped hl) fun _ => computes_of_shows _ ?_
    rw [hvalue]
    exact Block.raise_shows _ _
  | some ty =>
    rw [harb]
    refine h.computes_goto (i := .sClassify) (by decide) rfl (execSClassify_mapped hl) rfl fun s₃ e₃ h => ?_
    refine h.computes_record (i := .sRtr) (by decide) rfl rfl (fun _ _ => rfl) fun rtr s₄ _ e₄ h => ?_
    refine h.computes_takeAt (i := .sIde) (by decide) rfl rfl (fun v b => ?pos) fun ide s₅ _ e₅ h => ?_
    case pos => dsimp only; split <;> rfl
    have hsensor : s₅.block.sensor = sensorCode ty := by rw [e₅, e₄, e₃]; dsimp only; split <;> rfl
    let f : Frame :=
      { Frame.blank with arb := BitVec.ofNat 11 id, rtr := BitVec.ofNat 1 rtr, ide := BitVec.ofNat 1 ide }
    by_cases hone : ide = 1
    · rw [if_pos hone] at e₅ ⊢
      have hstate : s₅.block.state = Fsm.srr := by rw [e₅]; rfl
      exact (hstate ▸ h).computes_extended (f := f) hsensor (by rw [e₅, e₄, e₃, e₂, e₁]; rfl)
    · rw [if_neg hone] at e₅ ⊢
      have hstate : s₅.block.state = Fsm.reserved := by rw [e₅]; rfl
      exact ((hstate ▸ h).computes_walkTail (f := f) hsensor (by rw [e₅, e₄, e₃, e₂, e₁]; rfl)).mono (by omega)

end

/-- Settles O57: at SOF a legal block holds the whole sequence with the cursor at its start. -/
theorem microStepsComputeTheWalk : Obligations.MicroStepsComputeTheWalk := by
  intro s h hturns hstate
  have hpos : s.block.pos.toNat = 0 := by
    simpa [expectedPos, hstate] using h.block.position (by simp [Block.walking, hstate])
  obtain ⟨k, t, hk, hrun, hmode, hprogram, hshows⟩ := State.WalksAt.computes_walk ⟨h, hturns, rfl, hpos, hstate⟩
  refine ⟨k, t, hk, hrun, hmode, hprogram, ?_⟩
  generalize walk _ _ = r at hshows ⊢
  cases r <;> exact hshows

/-! ### The frames that decode -/

/-- Settles O53: the frame of a block in DONE lies within the 130 cells. -/
theorem onlyShortFramesDecode : Obligations.OnlyShortFramesDecode := by
  intro b h hd
  obtain ⟨⟨hpos, hlen⟩, -, hdone⟩ := doneHoldsAWholeFrame b h
  obtain ⟨-, -, -, -, -, -, -, -, hframe⟩ := hdone hd
  rw [hframe, frameLength] at hpos
  refine ⟨fun hide => ?_, fun hide => ?_⟩
  · rw [hide, if_neg (by decide)] at hpos
    omega
  · rw [hide, if_pos rfl] at hpos
    omega

/-- The value of the `n` bits from index `i` on. -/
def fieldOf (bits : BitSeq) (i n : Nat) : Nat := uint ((bits.drop i).take n)

theorem fieldOf_lt (bits : BitSeq) (i n : Nat) : fieldOf bits i n < 2 ^ n :=
  (uint_lt _).trans_le (Nat.pow_le_pow_right (by decide) (List.length_take_le n _))

/-- A register at least as wide as the field holds its value. -/
theorem toNat_ofNat_fieldOf (bits : BitSeq) (i : Nat) {n w : Nat} (h : n ≤ w) :
    (BitVec.ofNat w (fieldOf bits i n)).toNat = fieldOf bits i n :=
  Nat.mod_eq_of_lt ((fieldOf_lt bits i n).trans_le (Nat.pow_le_pow_right (by decide) h))

section
variable {bits : BitSeq} {cur n : Nat} {K : Nat → Nat → WalkResult} {ty : SensorType} {f : Frame}

/-- A walk that succeeds has found the bits of each `take`, and goes on with their value. -/
theorem takeAt_ok {cur' : Nat} (h : takeAt bits cur n K = .ok ty f) (hcur : cur + n = cur') :
    n ≤ bits.length - cur ∧ K (fieldOf bits cur n) cur' = .ok ty f := by
  unfold takeAt at h
  split at h
  case isTrue => cases h
  case isFalse hn => exact ⟨Nat.not_lt.mp hn, hcur ▸ h⟩

/-- A check that a successful walk has passed. -/
theorem check_ok {x v : Nat} {e : DecodeError} {r : WalkResult} (h : (if v ≠ x then .error e else r) = .ok ty f) :
    v = x ∧ r = .ok ty f := by
  split at h
  case isTrue => cases h
  case isFalse hv => exact ⟨not_not.mp hv, h⟩

/-- A `take` that finds its bits finds the same ones with more bits after them. -/
theorem takeAt_append {extra : BitSeq} {K' : Nat → Nat → WalkResult} (h : takeAt bits cur n K = .ok ty f)
    (hK : ∀ v cur, K v cur = .ok ty f → K' v cur = .ok ty f) : takeAt (bits ++ extra) cur n K' = .ok ty f := by
  obtain ⟨hn, h⟩ := takeAt_ok h rfl
  have hbits : ((bits ++ extra).drop cur).take n = (bits.drop cur).take n := by
    rw [List.drop_append, List.take_append_of_le_length (by simpa using hn)]
  rw [takeAt, if_neg (by rw [List.length_append]; omega), hbits]
  exact hK _ _ h

/-- A check that is passed is passed with more bits after it too. -/
theorem check_append {x v : Nat} {e : DecodeError} {r r' : WalkResult} (h : (if v ≠ x then .error e else r) = .ok ty f)
    (hr : r = .ok ty f → r' = .ok ty f) : (if v ≠ x then .error e else r') = .ok ty f := by
  obtain ⟨hv, h⟩ := check_ok h
  rw [if_neg (not_not.mpr hv), hr h]

/-- From the reserved bit on, a successful walk is the same with more bits after it. -/
theorem walkTail_append {extra : BitSeq} {t : SensorType} {g : Frame} (h : walkTail bits t g cur = .ok ty f) :
    walkTail (bits ++ extra) t g cur = .ok ty f := by
  unfold walkTail at h ⊢
  refine takeAt_append h fun rsv _ h => takeAt_append h fun dlc _ h => takeAt_append h fun data _ h =>
    takeAt_append h fun crc _ h => takeAt_append h fun crcd _ h => check_append h fun h =>
    takeAt_append h fun ack _ h => takeAt_append h fun ackd _ h => check_append h fun h =>
    takeAt_append h fun eof _ h => takeAt_append h fun ifs _ h => h

/-- The fields before the reserved bit stand at the indices of rule R80's tables, and the ID has the type. -/
structure Frame.HeadAt (f : Frame) (bits : BitSeq) (map : SensorMap) (ty : SensorType) : Prop where
  sof      : f.sof = 0#1
  sofBit   : fieldOf bits 0 1 = 0
  arb      : f.arb.toNat = fieldOf bits 1 11
  mapped   : lookupSensor map f.arb = some ty
  ide      : f.ide.toNat = fieldOf bits 13 1
  standard : f.ide = 0#1 → f.rtr.toNat = fieldOf bits 12 1 ∧ f.srr = none ∧ f.ext = none
  extended : f.ide = 1#1 → f.srr = some (BitVec.ofNat 1 (fieldOf bits 12 1)) ∧
    f.ext = some (BitVec.ofNat 18 (fieldOf bits 14 18)) ∧ f.rtr.toNat = fieldOf bits 32 1

/-- `HeadAt` speaks only of the fields before the reserved bit. -/
theorem Frame.HeadAt.of_head {map : SensorMap} {g : Frame} (h : g.HeadAt bits map ty) (hhead : f.head = g.head) :
    f.HeadAt bits map ty := by
  have hg : g.head.HeadAt bits map ty :=
    ⟨h.sof, h.sofBit, h.arb, h.mapped, h.ide, h.standard, h.extended⟩
  rw [← hhead] at hg
  exact ⟨hg.sof, hg.sofBit, hg.arb, hg.mapped, hg.ide, hg.standard, hg.extended⟩

/-- The fields from the reserved bit on stand at the indices of rule R80's tables, for a frame with `x` bits more before
them than a standard one and the DLC `d`. -/
structure Frame.TailAt (f : Frame) (bits : BitSeq) (x d : Nat) : Prop where
  rsv     : f.rsv.toNat = fieldOf bits (14 + x) 1
  dlc     : f.dlc.toNat = d
  dlcBits : d = fieldOf bits (15 + x) 4
  data    : f.data.toNat = fieldOf bits (19 + x) (8 * d)
  crc     : f.crc.toNat = fieldOf bits (19 + x + 8 * d) 15
  crcd    : f.crcd = 1#1
  crcdBit : fieldOf bits (34 + x + 8 * d) 1 = 1
  ack     : f.ack.toNat = fieldOf bits (35 + x + 8 * d) 1
  ackd    : f.ackd = 1#1
  ackdBit : fieldOf bits (36 + x + 8 * d) 1 = 1
  eof     : f.eof.toNat = fieldOf bits (37 + x + 8 * d) 7
  ifs     : f.ifs.toNat = fieldOf bits (44 + x + 8 * d) 3
  inside  : 47 + x + 8 * d ≤ bits.length

/-- A walk that succeeds from the reserved bit on keeps the fields before it and reads the others in their places. -/
theorem walkTail_ok {x : Nat} {t : SensorType} {g : Frame} (h : walkTail bits t g (14 + x) = .ok ty f) :
    ty = t ∧ f.head = g.head ∧ ∃ d, f.TailAt bits x d := by
  unfold walkTail at h
  obtain ⟨-, h⟩ := takeAt_ok h (cur' := 15 + x) (by omega)
  obtain ⟨-, h⟩ := takeAt_ok h (cur' := 19 + x) (by omega)
  obtain ⟨d, hd⟩ : ∃ d, d = fieldOf bits (15 + x) 4 := ⟨_, rfl⟩
  have hlt : d < 2 ^ 4 := hd ▸ fieldOf_lt bits _ _
  rw [← hd] at h
  obtain ⟨-, h⟩ := takeAt_ok h rfl
  obtain ⟨-, h⟩ := takeAt_ok h (cur' := 34 + x + 8 * d) (by omega)
  obtain ⟨-, h⟩ := takeAt_ok h (cur' := 35 + x + 8 * d) (by omega)
  obtain ⟨hcrcd, h⟩ := check_ok h
  obtain ⟨-, h⟩ := takeAt_ok h (cur' := 36 + x + 8 * d) (by omega)
  obtain ⟨-, h⟩ := takeAt_ok h (cur' := 37 + x + 8 * d) (by omega)
  obtain ⟨hackd, h⟩ := check_ok h
  obtain ⟨-, h⟩ := takeAt_ok h (cur' := 44 + x + 8 * d) (by omega)
  obtain ⟨hinside, h⟩ := takeAt_ok h rfl
  cases h
  exact ⟨rfl, rfl, d, {
    rsv := toNat_ofNat_fieldOf _ _ le_rfl
    dlc := Nat.mod_eq_of_lt hlt
    dlcBits := hd
    data := toNat_ofNat_fieldOf _ _ (by omega)
    crc := toNat_ofNat_fieldOf _ _ le_rfl
    crcd := congrArg (BitVec.ofNat 1) hcrcd
    crcdBit := hcrcd
    ack := toNat_ofNat_fieldOf _ _ le_rfl
    ackd := congrArg (BitVec.ofNat 1) hackd
    ackdBit := hackd
    eof := toNat_ofNat_fieldOf _ _ le_rfl
    ifs := toNat_ofNat_fieldOf _ _ le_rfl
    inside := by omega }⟩

/-- A walk that succeeds reads every field in its place (rules R80, R182). -/
theorem walk_ok {map : SensorMap} (h : walk bits map = .ok ty f) :
    f.HeadAt bits map ty ∧ ∃ d, f.TailAt bits (if f.ide = 1#1 then 19 else 0) d := by
  unfold walk at h
  obtain ⟨-, h⟩ := takeAt_ok h (cur' := 1) rfl
  obtain ⟨hsof, h⟩ := check_ok h
  obtain ⟨-, h⟩ := takeAt_ok h (cur' := 12) rfl
  cases hl : lookupSensor map (BitVec.ofNat 11 (fieldOf bits 1 11)) with
  | none => rw [hl] at h; cases h
  | some t =>
    rw [hl] at h
    obtain ⟨-, h⟩ := takeAt_ok h (cur' := 13) rfl
    obtain ⟨-, h⟩ := takeAt_ok h (cur' := 14) rfl
    have hsof₀ := congrArg (BitVec.ofNat 1) hsof
    dsimp only at h
    split at h
    case isTrue hone =>
      have hide := congrArg (BitVec.ofNat 1) hone
      obtain ⟨-, h⟩ := takeAt_ok h (cur' := 32) rfl
      obtain ⟨-, h⟩ := takeAt_ok h (cur' := 14 + 19) rfl
      obtain ⟨rfl, hhead, htail⟩ := walkTail_ok h
      have hide₁ : f.ide = 1#1 := (congrArg Frame.ide hhead).trans hide
      rw [if_pos hide₁]
      exact ⟨.of_head {
        sof := hsof₀
        sofBit := hsof
        arb := toNat_ofNat_fieldOf _ _ le_rfl
        mapped := hl
        ide := toNat_ofNat_fieldOf _ _ le_rfl
        standard := fun h₀ => absurd (hide.symm.trans h₀) (by decide)
        extended := fun _ => ⟨rfl, rfl, toNat_ofNat_fieldOf _ _ le_rfl⟩ } hhead, htail⟩
    case isFalse hne =>
      have hide := congrArg (BitVec.ofNat 1) (show fieldOf bits 13 1 = 0 by have := fieldOf_lt bits 13 1; omega)
      obtain ⟨rfl, hhead, htail⟩ := walkTail_ok (x := 0) h
      have hide₀ : f.ide = 0#1 := (congrArg Frame.ide hhead).trans hide
      rw [if_neg (by rw [hide₀]; decide)]
      exact ⟨.of_head {
        sof := hsof₀
        sofBit := hsof
        arb := toNat_ofNat_fieldOf _ _ le_rfl
        mapped := hl
        ide := toNat_ofNat_fieldOf _ _ le_rfl
        standard := fun _ => ⟨toNat_ofNat_fieldOf _ _ le_rfl, rfl, rfl⟩
        extended := fun h₁ => absurd (hide.symm.trans h₁) (by decide) } hhead, htail⟩

/-- A successful walk is the same with more bits after it (rule R81). -/
theorem walk_append {extra : BitSeq} {map : SensorMap} (h : walk bits map = .ok ty f) :
    walk (bits ++ extra) map = .ok ty f := by
  unfold walk at h ⊢
  refine takeAt_append h fun sof _ h => check_append h fun h => takeAt_append h fun id _ h => ?_
  cases hl : lookupSensor map (BitVec.ofNat 11 id) with
  | none => rw [hl] at h; cases h
  | some t =>
    rw [hl] at h
    refine takeAt_append h fun rtr _ h => takeAt_append h fun ide _ h => ?_
    dsimp only at h ⊢
    split at h
    case isTrue hone =>
      rw [if_pos hone]
      exact takeAt_append h fun ext _ h => takeAt_append h fun rtr2 _ h => walkTail_append h
    case isFalse hne =>
      rw [if_neg hne]
      exact walkTail_append h

end

/-- Settles O54: the indices are those of the walk's cursor. -/
theorem fieldsStandWhereTheFormatSays : Obligations.FieldsStandWhereTheFormatSays := by
  intro bits map t f h
  obtain ⟨hh, d, ht⟩ := walk_ok h
  obtain rfl := ht.dlc
  have hlength : frameLength f.ide f.dlc = 47 + (if f.ide = 1#1 then 19 else 0) + 8 * f.dlc.toNat := by
    rw [frameLength]
    split <;> rfl
  exact ⟨hh.sof, hh.sofBit, hh.arb, hh.mapped, hh.ide, hh.standard, hh.extended, ht.rsv, ht.dlcBits, ht.data, ht.crc,
    ht.crcd, ht.crcdBit, ht.ack, ht.ackd, ht.ackdBit, ht.eof, ht.ifs, hlength ▸ ht.inside⟩

/-- Settles O55: each `take` finds the same bits with more after them. -/
theorem leftoverBitsAreIgnored : Obligations.LeftoverBitsAreIgnored := fun _ _ _ _ _ h => walk_append h

end Sys2Proof.Machine

/-! PROOFS of the family 40_normalizer: the input shapes as instructions, minbin, the ports, and the decoder of octets
against the library's UTF-8 encoder. -/

namespace Sys2Proof.Machine

/-! ### The input shapes as instructions -/

/-- The instruction that normalizes a raw message (rules R121 to R123). -/
def RawInput.instr : RawInput → Instr
  | .text x => .normText x
  | .bytes x => .normBytes x
  | .int x => .normInt x

theorem exec_instr (raw : RawInput) (s : State) : exec raw.instr s = .next (s.setNorm (normalizeRaw raw)) := by
  cases raw <;> rfl

theorem exec_instr_of {raw : RawInput} {r : NormResult} {s : State} (h : normalizeRaw raw = r) :
    exec raw.instr s = .next { s with norm := some r } := h ▸ exec_instr raw s

/-- Settles O43: the instruction sets the normalizer's result, which is a function of the message alone. -/
theorem normalizerLeavesTheBlock : Obligations.NormalizerLeavesTheBlock := by
  intro s t i hi h
  obtain ⟨raw, rfl⟩ : ∃ raw : RawInput, i = raw.instr := by
    obtain ⟨x, rfl⟩ | ⟨x, rfl⟩ | ⟨x, rfl⟩ := hi
    · exact ⟨.text x, rfl⟩
    · exact ⟨.bytes x, rfl⟩
    · exact ⟨.int x, rfl⟩
  rw [exec_instr] at h
  cases h
  exact ⟨rfl, fun b => exec_instr raw _⟩

/-! ### `minbin` -/

/-- A sequence that starts with 1 has the length that its value needs. -/
theorem length_eq_log2_succ {m : BitSeq} (h : m.head? = some true) : m.length = Nat.log2 (uint m) + 1 := by
  obtain ⟨rest, rfl⟩ := List.head?_eq_some_iff.1 h
  have hvalue : uint (true :: rest) = 2 ^ rest.length + uint rest := by simp
  have hlt := uint_lt rest
  have hlog : Nat.log2 (uint (true :: rest)) = rest.length :=
    (Nat.log2_eq_iff (by omega)).2 ⟨by omega, by rw [pow_succ]; omega⟩
  rw [hlog, List.length_cons]

theorem minbin_length {v : Nat} (h : v ≠ 0) : (minbin v).length = Nat.log2 v + 1 := by simp [minbin_pos h]

theorem uint_minbin {v : Nat} (h : v ≠ 0) : uint (minbin v) = v := by
  rw [minbin_pos h, uint_lowBits, Nat.mod_eq_of_lt Nat.lt_log2_self]

/-- The highest bit comes first (rule R124). -/
theorem minbin_eq_cons {v : Nat} (h : v ≠ 0) : minbin v = true :: lowBits v (Nat.log2 v) := by
  rw [minbin_pos h, lowBits, Nat.testBit_log2 h]

theorem minbin_length_le_iff {v n : Nat} (hn : 0 < n) : (minbin v).length ≤ n ↔ v < 2 ^ n := by
  by_cases h : v = 0
  · subst h
    simp [minbin, Nat.succ_le_iff.2 hn]
  · rw [minbin_length h, Nat.succ_le_iff, Nat.log2_lt h]

/-- Settles O21: the value and the first bit fix the length, and the length and the value the sequence. -/
theorem minbinIsTheShortestForm : Obligations.MinbinIsTheShortestForm := by
  refine ⟨rfl, fun v hv => ?_⟩
  have hv : v ≠ 0 := hv.ne'
  refine ⟨by rw [minbin_eq_cons hv]; rfl, uint_minbin hv, minbin_length hv, fun m hhead hm => ?unique⟩
  apply uint_inj
  · rw [length_eq_log2_succ hhead, hm, minbin_length hv]
  · rw [hm, uint_minbin hv]

/-! ### Text and integers -/

theorem normalizeRaw_malformed {raw : RawInput} (h : shapeBits raw = none) : normalizeRaw raw = .malformedInput := by
  rw [normalizeRaw, h, finish]

theorem normalizeRaw_short {raw : RawInput} {bits : BitSeq} (h : shapeBits raw = some bits)
    (hl : bits.length ≤ 130) : normalizeRaw raw = .ok bits := by
  rw [normalizeRaw, h, finish, checkLength, if_neg hl.not_gt]

theorem normalizeRaw_long {raw : RawInput} {bits : BitSeq} (h : shapeBits raw = some bits)
    (hl : 130 < bits.length) : normalizeRaw raw = .frameTooLong bits.length := by
  rw [normalizeRaw, h, finish, checkLength, if_pos hl]

theorem isDecimalDigit_iff (c : Char) : isDecimalDigit c = true ↔ '0' ≤ c ∧ c ≤ '9' := by
  simp [isDecimalDigit, Char.le_def, UInt32.le_iff_toNat_le]

theorem all_isBinaryDigit_iff (s : List Char) : s.all isBinaryDigit = true ↔ ∀ c ∈ s, c = '0' ∨ c = '1' := by
  simp [isBinaryDigit]

theorem all_isDecimalDigit_iff (s : List Char) : s.all isDecimalDigit = true ↔ ∀ c ∈ s, '0' ≤ c ∧ c ≤ '9' := by
  simp [isDecimalDigit_iff]

theorem textBits_baseTwo {s : List Char} (hs : s ≠ []) (h : ∀ c ∈ s, c = '0' ∨ c = '1') :
    textBits s = some (s.map fun c => decide (c = '1')) := by
  rw [textBits, if_neg hs, if_pos ((all_isBinaryDigit_iff s).2 h)]

theorem textBits_decimal {s : List Char} (h : ∀ c ∈ s, '0' ≤ c ∧ c ≤ '9') (hother : ∃ c ∈ s, c ≠ '0' ∧ c ≠ '1') :
    textBits s = some (minbin (decimalValue s)) := by
  obtain ⟨c, hc, h0, h1⟩ := hother
  have hbinary : ¬ s.all isBinaryDigit = true := fun hall =>
    ((all_isBinaryDigit_iff s).1 hall c hc).elim h0 h1
  rw [textBits, if_neg (List.ne_nil_of_mem hc), if_neg hbinary, if_pos ((all_isDecimalDigit_iff s).2 h)]

theorem textBits_malformed {s : List Char} (h : ∃ c ∈ s, ¬ ('0' ≤ c ∧ c ≤ '9')) : textBits s = none := by
  obtain ⟨c, hc, hdigit⟩ := h
  have hdecimal : ¬ s.all isDecimalDigit = true := fun hall => hdigit ((all_isDecimalDigit_iff s).1 hall c hc)
  have hbinary : ¬ s.all isBinaryDigit = true := fun hall => by
    obtain rfl | rfl := (all_isBinaryDigit_iff s).1 hall c hc
    · exact hdigit (by decide)
    · exact hdigit (by decide)
  rw [textBits, if_neg (List.ne_nil_of_mem hc), if_neg hbinary, if_neg hdecimal]

/-- Settles O22: the bits of each kind of text, and then the length check. -/
theorem textNormalizes : Obligations.TextNormalizes := by
  refine ⟨fun _ => rfl, fun str s =>
    ⟨fun h => ?empty, fun hne h => ?baseTwo, fun h hother => ?decimal, fun h => ?other⟩⟩
  case empty =>
    subst h
    exact exec_instr_of (raw := .text []) (normalizeRaw_short (bits := []) rfl (Nat.zero_le _))
  case baseTwo =>
    have hbits : shapeBits (.text str) = some (str.map fun c => decide (c = '1')) := textBits_baseTwo hne h
    have hlen : (str.map fun c => decide (c = '1')).length = str.length := List.length_map _
    exact ⟨fun hl => exec_instr_of (normalizeRaw_short hbits (hlen ▸ hl)),
      fun hl => hlen ▸ exec_instr_of (normalizeRaw_long hbits (hlen ▸ hl))⟩
  case decimal =>
    have hbits : shapeBits (.text str) = some (minbin (decimalValue str)) := textBits_decimal h hother
    exact ⟨fun hl => exec_instr_of (normalizeRaw_short hbits hl), fun hl => exec_instr_of (normalizeRaw_long hbits hl)⟩
  case other => exact exec_instr_of (raw := .text str) (normalizeRaw_malformed (textBits_malformed h))

theorem shapeBits_nonneg {v : Int} (h : 0 ≤ v) : shapeBits (.int v) = some (minbin v.toNat) := by
  rw [shapeBits, if_neg h.not_gt]

theorem normalizeRaw_int {v : Int} (h : 0 ≤ v) (hlt : v < 2 ^ 130) :
    normalizeRaw (.int v) = .ok (minbin v.toNat) :=
  normalizeRaw_short (shapeBits_nonneg h) ((minbin_length_le_iff (by decide)).2 (by omega))

/-- Settles O24: below `2^130` the shortest form has at most 130 bits, and from there on more. -/
theorem integersNormalize : Obligations.IntegersNormalize := by
  refine ⟨fun _ => rfl, fun v s => ⟨fun h => ?negative, fun h hlt => ?fits, fun h => ?tooLong⟩⟩
  case negative => exact exec_instr_of (raw := .int v) (normalizeRaw_malformed (if_pos h))
  case fits => exact exec_instr_of (normalizeRaw_int h hlt)
  case tooLong =>
    have hlong : 130 < (minbin v.toNat).length := by
      rw [← Nat.not_le, minbin_length_le_iff (by decide)]
      omega
    have hnorm := normalizeRaw_long (shapeBits_nonneg (v := v) (by omega)) hlong
    rw [minbin_length (by omega)] at hnorm
    exact exec_instr_of hnorm

/-! ### The hand-off -/

theorem toPortLen_toNat {bits : BitSeq} (h : bits.length ≤ 130) : (toPortLen bits).toNat = bits.length := by
  rw [toPortLen, BitVec.toNat_ofNat, Nat.mod_eq_of_lt (by omega)]

theorem toPort_getLsbD (bits : BitSeq) {i : Nat} (h : i < 130) : (toPort bits).getLsbD i = bits.getD i false := by
  rw [toPort, BitVec.getLsbD_ofNat, packCells_testBit, decide_eq_true h, Bool.true_and]

theorem slice_toPort {bits : BitSeq} (h : bits.length ≤ 130) : slice (toPort bits) 0 bits.length = bits := by
  apply List.ext_getElem (slice_length _ _ _)
  intro k _ hk
  rw [slice_getElem, Nat.zero_add, toPort_getLsbD bits (by omega), List.getD_eq_getElem _ _ hk]

/-- Settles O25: the value of the packed cells, bit by bit. -/
theorem portsCarryTheSequence : Obligations.PortsCarryTheSequence :=
  fun bits h => ⟨toPortLen_toNat h, fun _ => toPort_getLsbD bits, slice_toPort h⟩

/-- A 1 at the start of frame ends the walk there (rule R161). -/
theorem walk_true_cons (rest : BitSeq) (map : SensorMap) :
    walk (true :: rest) map = .error (.invalidFixedBit .startOfFrame 1) := by
  simp [walk, takeAt]

/-- Settles O26: the shortest form of a positive integer starts with 1. -/
theorem positiveIntegersFailAtStartOfFrame : Obligations.PositiveIntegersFailAtStartOfFrame := by
  intro full text bytes v map hpos hlt
  have hnorm : normalizeTagged 0b10#2 { text := text, bytes := bytes, int := v } =
      .ok (true :: lowBits v.toNat (Nat.log2 v.toNat)) := by
    rw [← minbin_eq_cons (by omega)]
    exact normalizeRaw_int hpos.le hlt
  rw [libraryResult, hnorm]
  exact congrArg (WalkResult.view full) (walk_true_cons _ map)

/-! ### UTF-8 -/

/-- The octets of one character in the library's UTF-8 encoding. -/
def charOctets (c : Char) : List Byte := (String.utf8EncodeChar c).map (fun u => BitVec.ofNat 8 u.toNat)

@[simp] theorem utf8Octets_nil : utf8Octets [] = [] := rfl

@[simp] theorem utf8Octets_cons (c : Char) (cs : List Char) :
    utf8Octets (c :: cs) = charOctets c ++ utf8Octets cs := by
  simp [utf8Octets, charOctets]

theorem ofNat_toNat_uint8 (n : Nat) : BitVec.ofNat 8 (UInt8.ofNat n).toNat = BitVec.ofNat 8 n := by
  simp [← BitVec.toNat_inj]

/-- The four forms of a character's octets, by its code point (RFC 3629). -/
theorem charOctets_cases (c : Char) :
    (c.toNat < 0x80 ∧ charOctets c = [BitVec.ofNat 8 c.toNat]) ∨
    (0x80 ≤ c.toNat ∧ c.toNat < 0x800 ∧
      charOctets c = [BitVec.ofNat 8 (c.toNat / 64 % 32 + 0xC0), BitVec.ofNat 8 (c.toNat % 64 + 0x80)]) ∨
    (0x800 ≤ c.toNat ∧ c.toNat < 0x10000 ∧
      charOctets c = [BitVec.ofNat 8 (c.toNat / 4096 % 16 + 0xE0), BitVec.ofNat 8 (c.toNat / 64 % 64 + 0x80),
        BitVec.ofNat 8 (c.toNat % 64 + 0x80)]) ∨
    (0x10000 ≤ c.toNat ∧
      charOctets c = [BitVec.ofNat 8 (c.toNat / 262144 % 8 + 0xF0), BitVec.ofNat 8 (c.toNat / 4096 % 64 + 0x80),
        BitVec.ofNat 8 (c.toNat / 64 % 64 + 0x80), BitVec.ofNat 8 (c.toNat % 64 + 0x80)]) := by
  simp only [charOctets, String.utf8EncodeChar, Char.toNat_val]
  split_ifs with h1 h2 h3
  all_goals simp only [List.map_cons, List.map_nil, ofNat_toNat_uint8]
  · exact .inl ⟨by omega, trivial⟩
  · exact .inr (.inl ⟨by omega, by omega, trivial⟩)
  · exact .inr (.inr (.inl ⟨by omega, by omega, trivial⟩))
  · exact .inr (.inr (.inr ⟨by omega, trivial⟩))

/-! A list of octets is a character's exactly when each octet is the one its code point asks for: of the four forms one
has the list's length. -/

section
variable {c : Char} {b0 b1 b2 b3 : Byte}

theorem charOctets_eq_one : charOctets c = [b0] ↔ c.toNat < 0x80 ∧ b0.toNat = c.toNat := by
  obtain ⟨h, e⟩ | ⟨h, h', e⟩ | ⟨h, h', e⟩ | ⟨h, e⟩ := charOctets_cases c <;> simp [e, ← BitVec.toNat_inj] <;> omega

theorem charOctets_eq_two :
    charOctets c = [b0, b1] ↔
      0x80 ≤ c.toNat ∧ c.toNat < 0x800 ∧ b0.toNat = 0xC0 + c.toNat / 64 ∧ b1.toNat = 0x80 + c.toNat % 64 := by
  obtain ⟨h, e⟩ | ⟨h, h', e⟩ | ⟨h, h', e⟩ | ⟨h, e⟩ := charOctets_cases c <;> simp [e, ← BitVec.toNat_inj] <;> omega

theorem charOctets_eq_three :
    charOctets c = [b0, b1, b2] ↔
      0x800 ≤ c.toNat ∧ c.toNat < 0x10000 ∧ b0.toNat = 0xE0 + c.toNat / 4096 ∧
        b1.toNat = 0x80 + c.toNat / 64 % 64 ∧ b2.toNat = 0x80 + c.toNat % 64 := by
  obtain ⟨h, e⟩ | ⟨h, h', e⟩ | ⟨h, h', e⟩ | ⟨h, e⟩ := charOctets_cases c <;> simp [e, ← BitVec.toNat_inj] <;> omega

theorem charOctets_eq_four :
    charOctets c = [b0, b1, b2, b3] ↔
      0x10000 ≤ c.toNat ∧ b0.toNat = 0xF0 + c.toNat / 262144 ∧ b1.toNat = 0x80 + c.toNat / 4096 % 64 ∧
        b2.toNat = 0x80 + c.toNat / 64 % 64 ∧ b3.toNat = 0x80 + c.toNat % 64 := by
  have hvalid : c.toNat.isValidChar := c.valid
  obtain ⟨h, e⟩ | ⟨h, h', e⟩ | ⟨h, h', e⟩ | ⟨h, e⟩ := charOctets_cases c <;> simp [e, ← BitVec.toNat_inj] <;> omega

theorem octetIn_iff (lo hi : Nat) (b : Byte) : octetIn lo hi b = true ↔ lo ≤ b.toNat ∧ b.toNat ≤ hi := by
  simp [octetIn]

theorem charOfNat_eq_iff {n : Nat} (h : n.isValidChar) : Char.ofNat n = c ↔ n = c.toNat := by
  rw [← Char.toNat_inj, Char.toNat_ofNat, if_pos h]

/-- A decoder's guarded answer, as a statement about the code point. -/
theorem guarded_charOfNat_iff {p : Bool} {n : Nat} (h : p = true → n.isValidChar) :
    (if p then some (Char.ofNat n) else none) = some c ↔ p = true ∧ n = c.toNat := by
  rw [Option.ite_none_right_eq_some, Option.some.injEq]
  exact and_congr_right fun hp => charOfNat_eq_iff (h hp)

theorem ascii_iff : b0.toNat < 0x80 ∧ Char.ofNat b0.toNat = c ↔ charOctets c = [b0] := by
  rw [charOctets_eq_one, and_congr_right fun h => charOfNat_eq_iff (.inl (by omega))]
  omega

theorem utf8Two_eq_some_iff : utf8Two b0 b1 = some c ↔ charOctets c = [b0, b1] := by
  rw [utf8Two, charOctets_eq_two, guarded_charOfNat_iff]
  all_goals simp only [Bool.and_eq_true, octetIn_iff, tailBits, Nat.isValidChar]; omega

theorem utf8Three_eq_some_iff : utf8Three b0 b1 b2 = some c ↔ charOctets c = [b0, b1, b2] := by
  have hvalid : c.toNat.isValidChar := c.valid
  rw [utf8Three, charOctets_eq_three, guarded_charOfNat_iff]
  all_goals
    simp only [Bool.and_eq_true, octetIn_iff, tailBits, Nat.isValidChar, ← BitVec.toNat_inj, BitVec.reduceToNat]
    split_ifs <;> omega

theorem utf8Four_eq_some_iff : utf8Four b0 b1 b2 b3 = some c ↔ charOctets c = [b0, b1, b2, b3] := by
  have hvalid : c.toNat.isValidChar := c.valid
  rw [utf8Four, charOctets_eq_four, guarded_charOfNat_iff]
  all_goals
    simp only [Bool.and_eq_true, octetIn_iff, tailBits, Nat.isValidChar, ← BitVec.toNat_inj, BitVec.reduceToNat]
    split_ifs <;> omega

/-! The decoder goes by the first octet, and on a character's octets it answers that character. -/

variable {bs : List Byte}

theorem utf8Decode_one (h : b0.toNat < 0x80) :
    utf8Decode (b0 :: bs) = consChar (some (Char.ofNat b0.toNat)) (utf8Decode bs) := by
  rw [utf8Decode.eq_def]
  exact if_pos h

theorem utf8Decode_two (h : 0x80 ≤ b0.toNat) (h' : b0.toNat < 0xE0) :
    utf8Decode (b0 :: b1 :: bs) = consChar (utf8Two b0 b1) (utf8Decode bs) := by
  rw [utf8Decode.eq_def]
  exact (if_neg h.not_gt).trans (if_pos h')

theorem utf8Decode_three (h : 0xE0 ≤ b0.toNat) (h' : b0.toNat < 0xF0) :
    utf8Decode (b0 :: b1 :: b2 :: bs) = consChar (utf8Three b0 b1 b2) (utf8Decode bs) := by
  rw [utf8Decode.eq_def]
  exact (if_neg (by omega)).trans ((if_neg h.not_gt).trans (if_pos h'))

theorem utf8Decode_four (h : 0xF0 ≤ b0.toNat) :
    utf8Decode (b0 :: b1 :: b2 :: b3 :: bs) = consChar (utf8Four b0 b1 b2 b3) (utf8Decode bs) := by
  rw [utf8Decode.eq_def]
  exact (if_neg (by omega)).trans ((if_neg (by omega)).trans (if_neg h.not_gt))

theorem utf8Decode_charOctets_append : utf8Decode (charOctets c ++ bs) = consChar (some c) (utf8Decode bs) := by
  obtain ⟨-, e⟩ | ⟨-, -, e⟩ | ⟨-, -, e⟩ | ⟨-, e⟩ := charOctets_cases c
  · obtain ⟨hlt, hc⟩ := ascii_iff.2 e
    rw [e, List.singleton_append, utf8Decode_one hlt, hc]
  · obtain ⟨-, hlt, h0, -⟩ := charOctets_eq_two.1 e
    rw [e, ← utf8Two_eq_some_iff.2 e]
    exact utf8Decode_two (by omega) (by omega)
  · obtain ⟨-, hlt, h0, -⟩ := charOctets_eq_three.1 e
    rw [e, ← utf8Three_eq_some_iff.2 e]
    exact utf8Decode_three (by omega) (by omega)
  · obtain ⟨-, h0, -⟩ := charOctets_eq_four.1 e
    rw [e, ← utf8Four_eq_some_iff.2 e]
    exact utf8Decode_four (by omega)

theorem consChar_eq_some {o : Option Char} {r : Option (List Char)} {cs : List Char} (h : consChar o r = some cs) :
    ∃ c cs', o = some c ∧ r = some cs' ∧ cs = c :: cs' :=
  match o, r, h with
  | some c, some cs', h => ⟨c, cs', rfl, rfl, (Option.some.inj h).symm⟩

end

theorem utf8Decode_utf8Octets (cs : List Char) : utf8Decode (utf8Octets cs) = some cs := by
  induction cs with
  | nil => rfl
  | cons c cs ih => rw [utf8Octets_cons, utf8Decode_charOctets_append, ih, consChar]

/-- A character in front of a rest that the decoder accepts: the octets are those of the characters. -/
theorem eq_utf8Octets_of_consChar {front rest : List Byte} {o : Option Char} {cs : List Char}
    (hfront : ∀ c, o = some c → charOctets c = front)
    (hrest : ∀ cs, utf8Decode rest = some cs → rest = utf8Octets cs)
    (h : consChar o (utf8Decode rest) = some cs) : front ++ rest = utf8Octets cs := by
  obtain ⟨c, cs', ho, hr, rfl⟩ := consChar_eq_some h
  rw [utf8Octets_cons, hfront c ho, ← hrest cs' hr]

theorem eq_utf8Octets_of_utf8Decode {b : List Byte} {cs : List Char} (h : utf8Decode b = some cs) :
    b = utf8Octets cs := by
  induction b using utf8Decode.induct generalizing cs with
  | case1 => cases h; rfl
  | case2 b0 rest h0 ih =>
    rw [utf8Decode_one h0] at h
    exact eq_utf8Octets_of_consChar (front := [b0]) (fun c hc => ascii_iff.1 ⟨h0, Option.some.inj hc⟩) @ih h
  | case4 b0 h0 b1 rest h1 ih =>
    rw [utf8Decode_two (Nat.not_lt.mp h0) h1] at h
    exact eq_utf8Octets_of_consChar (front := [b0, b1]) (fun _ => utf8Two_eq_some_iff.1) @ih h
  | case6 b0 h0 b1 h1 b2 rest h2 ih =>
    rw [utf8Decode_three (Nat.not_lt.mp h1) h2] at h
    exact eq_utf8Octets_of_consChar (front := [b0, b1, b2]) (fun _ => utf8Three_eq_some_iff.1) @ih h
  | case8 b0 h0 b1 h1 b2 h2 b3 rest ih =>
    rw [utf8Decode_four (Nat.not_lt.mp h2)] at h
    exact eq_utf8Octets_of_consChar (front := [b0, b1, b2, b3]) (fun _ => utf8Four_eq_some_iff.1) @ih h
  | case3 b0 h0 => simp [utf8Decode, h0] at h
  | case5 b0 h0 b1 h1 => simp [utf8Decode, h0, h1] at h
  | case7 b0 h0 b1 h1 b2 h2 => simp [utf8Decode, h0, h1, h2] at h

/-- The decoder accepts the encodings of texts and nothing else (RFC 3629, notes/assumptions/12.md). -/
theorem utf8Decode_eq_some_iff {b : List Byte} {cs : List Char} : utf8Decode b = some cs ↔ b = utf8Octets cs :=
  ⟨eq_utf8Octets_of_utf8Decode, fun h => h ▸ utf8Decode_utf8Octets cs⟩

/-- Settles O23: the decoder accepts exactly the encodings. -/
theorem bytesNormalizeAsText : Obligations.BytesNormalizeAsText := by
  refine ⟨fun _ => rfl, fun cs s => ?encoding, fun b s h => ?noEncoding⟩
  case encoding =>
    have hraw : normalizeRaw (.bytes (utf8Octets cs)) = normalizeRaw (.text cs) := by
      simp [normalizeRaw, shapeBits, utf8Decode_utf8Octets]
    exact exec_instr_of hraw
  case noEncoding =>
    have hnone : utf8Decode b = none :=
      Option.eq_none_iff_forall_ne_some.2 fun cs hd => h cs (eq_utf8Octets_of_utf8Decode hd)
    have hraw : normalizeRaw (.bytes b) = .malformedInput := by simp [normalizeRaw, shapeBits, hnone, finish]
    exact exec_instr_of hraw
end Sys2Proof.Machine

/-! PROOFS of the family 41_bit_cursor: the cursor words run on their own, and the decode commands that latch the
buffer the cursor reads. -/

namespace Sys2Proof.Machine

/-! ### The cursor words -/

/-- The cells of a read, by their indices in wire order (rules R9, R63). -/
theorem slice_eq_map (buf : Cells) (p n : Nat) :
    slice buf p n = (List.range n).map fun k => buf.getLsbD (p + k) :=
  List.ext_getElem (by simp) fun k _ _ => by simp [slice_getElem]

/-- A read of no bits leaves the cursor where it is. -/
@[simp] theorem advance_zero (b : Block) : b.advance 0 = b := by simp [Block.advance]

theorem exec_take_enough {s : State} {n : Nat} (h : s.block.cursorOk) (hn : n ≤ remaining s.block) :
    exec (.take n) s =
      .next ((s.setBlock (s.block.advance n)).setTaken (.bits (slice s.block.buf s.block.pos.toNat n))) := by
  rw [exec, execTake, take_enough h hn]

theorem exec_take_short {s : State} {n : Nat} (h : s.block.cursorOk) (hn : remaining s.block < n) :
    exec (.take n) s = .next (s.setBlock (s.block.shortOf n)) := by
  rw [exec, execTake, take_short h.1 hn, raise_insufficientBits]

theorem exec_takeUint_enough {s : State} {n : Nat} (h : s.block.cursorOk) (hn : n ≤ remaining s.block) :
    exec (.takeUint n) s =
      .next ((s.setBlock (s.block.advance n)).setTaken (.uint (uint (slice s.block.buf s.block.pos.toNat n)))) := by
  rw [exec, execTakeUint, takeUint_enough h hn]

theorem exec_takeUint_short {s : State} {n : Nat} (h : s.block.cursorOk) (hn : remaining s.block < n) :
    exec (.takeUint n) s = .next (s.setBlock (s.block.shortOf n)) := by
  rw [exec, execTakeUint, takeUint_short h.1 hn, raise_insufficientBits]

/-- Settles O28, by whether `n` bits remain. -/
theorem takeReturnsTheNextBits : Obligations.TakeReturnsTheNextBits := by
  refine fun s n h => ⟨fun hn => ?enough, fun hn => exec_take_short h hn⟩
  rw [exec_take_enough h hn, advance_eq, slice_eq_map]
  rfl

/-- Settles O29: the value is that of TAKE's cells, and a width of 0 is the read of no bits. -/
theorem takeUintReturnsTheValue : Obligations.TakeUintReturnsTheValue := by
  refine fun s n h => ⟨?zero, fun hn => ⟨_, fieldAt_slice s.block n, ?enough⟩, fun hn => exec_takeUint_short h hn⟩
  case zero =>
    rw [exec_takeUint_enough h (Nat.zero_le _), advance_zero]
    rfl
  case enough =>
    rw [exec_takeUint_enough h hn, advance_eq]
    rfl

/-! ### The decode commands -/

section
variable {b : Block} {l : BitVec 8} (m : BitVec 1) (c : Cells)

/-- A command in a quiescent state, of a length in the limit: the latch clears what reset clears (rules R140, R212). -/
theorem startDecode_start (hq : b.quiescent = true) (hl : l.toNat ≤ Config.maxBits) :
    startDecode m l c b = { Block.reset with mode := m, buf := c, len := l, state := Fsm.sof } := by
  simp [startDecode, hq, hl.not_gt, Block.latch, hl, Block.goto, Block.reset]

/-- A command in a quiescent state, of a length over the limit: it latches no length (rules R140, R212). -/
theorem startDecode_tooLong (hq : b.quiescent = true) (hl : Config.maxBits < l.toNat) :
    startDecode m l c b = { Block.reset with
      mode := m, buf := c, state := Fsm.error, errKind := 1#3, errA := BitVec.ofNat 16 l.toNat } := by
  simp [startDecode, hq, hl, Block.latch, hl.not_ge, Block.raise, Block.reset, DecodeError.kind, DecodeError.argA,
    DecodeError.argB]

/-- A command while a decode runs (rule R214). -/
theorem startDecode_busy (hq : ¬ b.quiescent = true) : startDecode m l c b = b.reject := if_neg hq

end

/-- Settles O13. Both commands are one start in their mode, so each of its three outcomes is stated once for both. -/
theorem commandsLatchAndStart : Obligations.CommandsLatchAndStart := by
  intro s l c
  have hdecode : exec (.decode l c) s = .next (s.setBlock (startDecode 0#1 l c s.block)) := rfl
  have hfull : exec (.decodeFull l c) s = .next (s.setBlock (startDecode 1#1 l c s.block)) := rfl
  dsimp only
  rw [hdecode, hfull, ← quiescent_iff]
  refine ⟨rfl, rfl, fun hq hl => ?start, fun hq hl => ?tooLong, fun hq => ?busy⟩
  case start => rw [startDecode_start _ _ hq hl, startDecode_start _ _ hq hl]; exact ⟨rfl, rfl⟩
  case tooLong => rw [startDecode_tooLong _ _ hq hl, startDecode_tooLong _ _ hq hl]; exact ⟨rfl, rfl⟩
  case busy => rw [startDecode_busy _ _ hq, startDecode_busy _ _ hq]; exact ⟨rfl, rfl⟩

end Sys2Proof.Machine

/-! PROOFS of the family 42_field_walk: each state's micro-step whole, the codes that `STATE` can hold, and the number
of micro-steps that a frame takes. -/

namespace Sys2Proof.Machine

/-! ### The micro-steps that read a field -/

section
variable {code : BitVec 5} {i : Instr} {s : State} {n : Nat} {w : Nat → Block → Block} {after : Nat → Block}

/-- A field-reading micro-step is known whole by what it writes to the block whose cursor is past the field. -/
theorem readsField_of_fieldStep (h : s.block.cursorOk) (hd : decode (.fsmState code) = .ok i)
    (hi : exec i s = fieldStep n w s)
    (hw : ∀ v, v < 2 ^ n → w v { s.block with pos := s.block.pos + BitVec.ofNat 8 n } = after v) :
    ReadsField code i s n after := by
  refine ⟨hd, fun hn => ⟨_, fieldAt_slice s.block n, ?enough⟩, fun hn => ?short⟩
  case enough =>
    rw [hi, fieldStep_enough w h hn, advance_eq, hw _ (uint_slice_lt _ _ _)]
    rfl
  case short =>
    rw [hi, fieldStep_short w h.1 hn, raise_insufficientBits]
    rfl

/-- A field of one bit has two values. -/
theorem readsField_of_bit (h : s.block.cursorOk) (hd : decode (.fsmState code) = .ok i)
    (hi : exec i s = fieldStep 1 w s) (h0 : w 0 { s.block with pos := s.block.pos + 1#8 } = after 0)
    (h1 : w 1 { s.block with pos := s.block.pos + 1#8 } = after 1) : ReadsField code i s 1 after := by
  refine readsField_of_fieldStep h hd hi fun v hv => ?_
  obtain rfl | rfl : v = 0 ∨ v = 1 := by omega
  · exact h0
  · exact h1

end

/-- Settles O30, by the two values of the bit. -/
theorem startOfFrameMicroStep : Obligations.StartOfFrameMicroStep :=
  fun _ h => readsField_of_bit h rfl rfl rfl rfl

/-- Settles O31: what is written is the same for every value. -/
theorem identifierMicroSteps : Obligations.IdentifierMicroSteps :=
  fun _ h => ⟨readsField_of_fieldStep h rfl rfl fun _ _ => rfl, readsField_of_fieldStep h rfl rfl fun _ _ => rfl⟩

/-- Settles O33: what is written does not depend on a check of the bit. -/
theorem uncheckedBitMicroSteps : Obligations.UncheckedBitMicroSteps :=
  fun _ h => ⟨readsField_of_fieldStep h rfl rfl fun _ _ => rfl, readsField_of_fieldStep h rfl rfl fun _ _ => rfl,
    readsField_of_fieldStep h rfl rfl fun _ _ => rfl, readsField_of_fieldStep h rfl rfl fun _ _ => rfl⟩

/-- Settles O34, by the two values of the bit. -/
theorem ideMicroStepBranches : Obligations.IdeMicroStepBranches :=
  fun _ h => readsField_of_bit h rfl rfl rfl rfl

/-- Settles O36: what is written is the same for every value, none clamped. -/
theorem dlcMicroStep : Obligations.DlcMicroStep :=
  fun _ h => readsField_of_fieldStep h rfl rfl fun _ _ => rfl

/-- S_DATA with a DLC of 0 reads the empty field, which is always there (rule R171). -/
theorem exec_sData_of_dlc_zero {s : State} (h : s.block.cursorOk) (hdlc : s.block.fDlc = 0#4) :
    exec .sData s = .next { s with block := { s.block with fData := 0#120, state := Fsm.crc } } := by
  have hwidth : dataWidth s.block = 0 := by simp [dataWidth, hdlc]
  rw [exec, execSData, hwidth, fieldStep_enough _ h (Nat.zero_le _), advance_zero]
  rfl

/-- Settles O37: the width is that of the DLC. -/
theorem dataMicroStep : Obligations.DataMicroStep :=
  fun _ h => ⟨readsField_of_fieldStep h rfl rfl fun _ _ => rfl, exec_sData_of_dlc_zero h⟩

/-- Settles O38, by the two values of each delimiter. -/
theorem delimiterMicroSteps : Obligations.DelimiterMicroSteps :=
  fun _ h => ⟨readsField_of_bit h rfl rfl rfl rfl, readsField_of_bit h rfl rfl rfl rfl⟩

/-- Settles O39: what is written does not depend on a check of the field. -/
theorem uncheckedFieldMicroSteps : Obligations.UncheckedFieldMicroSteps :=
  fun _ h => ⟨readsField_of_fieldStep h rfl rfl fun _ _ => rfl, readsField_of_fieldStep h rfl rfl fun _ _ => rfl,
    readsField_of_fieldStep h rfl rfl fun _ _ => rfl⟩

/-! ### The micro-steps that read nothing -/

/-- Settles O11: the three states hold. -/
theorem quiescentStatesHold : Obligations.QuiescentStatesHold := fun _ => ⟨rfl, rfl, rfl⟩

/-- Settles O35: the instruction and its write as the model has them. -/
theorem srrMicroStepCopiesRtr : Obligations.SrrMicroStepCopiesRtr := ⟨rfl, fun _ => rfl⟩

/-- Settles O32: the lookup decides, and the listed codes are those of the types. -/
theorem classifyMicroStep : Obligations.ClassifyMicroStep := by
  refine ⟨rfl, fun s => ⟨fun hl => execSClassify_unmapped hl, fun t code hmem hl => ?mapped⟩⟩
  have hcode : code = sensorCode t := by
    cases t <;> simpa [sensorCode] using hmem
  subst hcode
  exact execSClassify_mapped hl

/-- A `take` that finds its bits gives their value to the rest of the walk. -/
theorem takeAt_of_drop {bits field rest : BitSeq} {cur n : Nat} {K : Nat → Nat → WalkResult}
    (hbits : bits.drop cur = field ++ rest) (hn : field.length = n) :
    takeAt bits cur n K = K (uint field) (cur + n) := by
  subst hn
  have hlen : bits.length - cur = field.length + rest.length := by
    rw [← List.length_drop, hbits, List.length_append]
  rw [takeAt, if_neg (by omega), hbits, List.take_left]

/-- Settles O56: the walk takes the bit 0 and the ID, whose lookup then ends it. -/
theorem unknownIdFailsFast : Obligations.UnknownIdFailsFast := by
  intro id rest map hlen hl
  rw [walk, takeAt_of_drop (n := 1) (field := [false]) (rest := id ++ rest) rfl rfl, if_neg (by decide),
    takeAt_of_drop (rest := rest) rfl hlen, hl]

/-! ### The codes that `STATE` can hold -/

theorem state_lt_of_reservedValue {b : Block} (h : b.reservedValue = none) : b.state.toNat < 20 := by
  unfold Block.reservedValue at h
  split at h
  case isTrue => cases h
  case isFalse hlt => exact Nat.not_le.mp hlt

theorem reservedValue_of_state {b : Block} (h : 20 ≤ b.state.toNat) : b.reservedValue = some .reservedState :=
  if_pos h

theorem fieldStep_state_lt {s t : State} {n : Nat} {w : Nat → Block → Block} (h : fieldStep n w s = .next t)
    (hw : ∀ v b, (w v b).state.toNat < 20) : t.block.state.toNat < 20 := by
  obtain ⟨-, -, rfl⟩ | ⟨-, -, rfl⟩ := fieldStep_next h
  · exact hw _ _
  · exact (by decide : Fsm.error.toNat < 20)

theorem startDecode_state_lt {b : Block} (h : b.state.toNat < 20) (m : BitVec 1) (l : BitVec 8) (c : Cells) :
    (startDecode m l c b).state.toNat < 20 := by
  obtain ⟨-, -, e⟩ | ⟨-, -, e⟩ | ⟨-, e⟩ := startDecode_cases m l c b <;> rw [e]
  · simp
  · simp
  · exact h

/-- No instruction writes a reserved code to `STATE` (rule R180). -/
theorem exec_state_lt {i : Instr} {s t : State} (hs : s.block.state.toNat < 20) (h : exec i s = .next t) :
    t.block.state.toNat < 20 := by
  cases i with
  | nop | reservedCmd | normText | normBytes | normInt | sIdle | sDone | sError => cases h; exact hs
  | decode | decodeFull => cases h; exact startDecode_state_lt hs _ _ _
  | take n | takeUint n =>
    obtain ⟨-, -, _, rfl⟩ | rfl := exec_cursorOp_next (n := n) (by simp) h
    · exact hs
    · simp
  | sClassify => obtain rfl | ⟨_, rfl⟩ := execSClassify_next h <;> simp
  | sSrr => cases h; simp
  | sArbId | sRtr | sExtId | sRtr2 | sReserved | sDlc | sData | sCrc | sAck | sEof | sIfs =>
    exact fieldStep_state_lt h fun _ _ => by simp
  | sSof | sIde | sCrcDel | sAckDel =>
    refine fieldStep_state_lt h fun v b => ?_
    dsimp only
    split <;> simp

/-- Settles O9: the step checks `STATE` first, and what it runs writes no reserved code. -/
theorem reservedStatesHaveNoStep : Obligations.ReservedStatesHaveNoStep := by
  refine ⟨fun s hs => ?refused, fun s t h => ?next⟩
  case refused => rw [step, fetch_eq_refused (reservedValue_of_state hs)]
  case next =>
    obtain ⟨hr, ⟨w, s', i, hm, -, he⟩ | ⟨w, s', hm, -, rfl⟩ | hm⟩ := step_next h
    all_goals have hs := state_lt_of_reservedValue hr
    · obtain ⟨hb, -⟩ := move_run hm
      exact exec_state_lt (hb ▸ hs) he
    · obtain ⟨hb, -⟩ := move_run hm
      exact hb ▸ hs
    · obtain ⟨hb | hb, -⟩ := move_done hm <;> rw [hb]
      · exact hs
      · decide

/-! ### The number of micro-steps of a frame -/

/-- The micro-steps from SOF to the code in `STATE` (rules R161 to R177, R183): a standard frame leaves out the three
states of the extended branch. -/
def Block.stepsTaken (b : Block) : Nat :=
  if b.state.toNat ≤ 8 then b.state.toNat - 1
  else (if b.fIde = 1#1 then 3 else 0) + (b.state.toNat - 4)

theorem stepsTaken_sof {b : Block} (h : b.state = Fsm.sof) : b.stepsTaken = 0 := by simp [Block.stepsTaken, h]

/-- A frame takes 14 micro-steps, and 17 in the extended format (rule R183). -/
theorem stepsTaken_done {b : Block} (h : b.state = Fsm.done) :
    b.stepsTaken = if b.fIde = 1#1 then 17 else 14 := by
  rw [Block.stepsTaken, h, if_neg (by decide)]
  split <;> rfl

/-- The walk has ended in an error, or it is one micro-step further on. -/
def Block.StepsOn (b b' : Block) : Prop := b'.state = Fsm.error ∨ b'.stepsTaken = b.stepsTaken + 1

theorem fieldStep_stepsOn {s t : State} {n : Nat} {w : Nat → Block → Block} (h : fieldStep n w s = .next t)
    (hw : ∀ v, v < 2 ^ n → s.block.StepsOn (w v (s.block.advance n))) : s.block.StepsOn t.block := by
  obtain ⟨-, -, rfl⟩ | ⟨-, -, rfl⟩ := fieldStep_next h
  · exact hw _ (uint_slice_lt _ _ _)
  · exact .inl rfl

/-- A micro-step of the code in `STATE` ends the walk in an error or takes it one micro-step further on. -/
theorem microStep_stepsOn {i : Instr} {s t : State} (h : s.block.Inv) (henabled : s.block.enabled = true)
    (hword : encode i = .fsmState s.block.state) (hs : exec i s = .next t) : s.block.StepsOn t.block := by
  have hc : ∀ c, encode i = .fsmState c → s.block.state = c := fun c he =>
    CodeWord.fsmState.inj (hword.symm.trans he)
  cases i with
  | nop | decode | decodeFull | reservedCmd | normText | normBytes | normInt | take | takeUint => cases hword
  | sIdle | sDone | sError => simp [Block.enabled, hc _ rfl] at henabled
  | sClassify =>
    obtain rfl | ⟨_, rfl⟩ := execSClassify_next hs
    · exact .inl rfl
    · simp [Block.StepsOn, Block.stepsTaken, hc _ rfl]
  | sSrr => cases hs; simp [Block.StepsOn, Block.stepsTaken, hc _ rfl]
  | sRtr2 =>
    obtain ⟨-, -, -, hrtr2, -⟩ := h.presence
    obtain ⟨hide, -⟩ := hrtr2 (by simp [hc _ rfl])
    exact fieldStep_stepsOn hs fun v _ => by simp [Block.StepsOn, Block.stepsTaken, hc _ rfl, hide]
  | sIde =>
    refine fieldStep_stepsOn hs fun v hv => ?_
    obtain rfl | rfl : v = 0 ∨ v = 1 := by simp at hv; omega
    · simp [Block.StepsOn, Block.stepsTaken, hc _ rfl]
    · simp [Block.StepsOn, Block.stepsTaken, hc _ rfl]
  | sArbId | sRtr | sExtId | sReserved | sDlc | sData | sCrc | sAck | sEof | sIfs =>
    exact fieldStep_stepsOn hs fun v _ => by simp [Block.StepsOn, Block.stepsTaken, hc _ rfl, Nat.add_assoc]
  | sSof | sCrcDel | sAckDel =>
    refine fieldStep_stepsOn hs fun v _ => ?_
    dsimp only
    split
    · exact .inl rfl
    · simp [Block.StepsOn, Block.stepsTaken, hc _ rfl, Nat.add_assoc]

/-! The host's program has no part in a micro-step. -/

theorem fieldStep_setProgram {s t : State} {n : Nat} {w : Nat → Block → Block} (p : List HostOp)
    (h : fieldStep n w s = .next t) : fieldStep n w (s.setProgram p) = .next (t.setProgram p) := by
  rw [fieldStep] at h ⊢
  rw [State.setProgram_block]
  cases hr : takeUint n s.block with
  | ok v b => rw [hr] at h; cases h; rfl
  | raised b => rw [hr] at h; cases h; rfl
  | fault r => rw [hr] at h; cases h

theorem microStep_setProgram {code : BitVec 5} {i : Instr} {s t : State} (p : List HostOp)
    (hd : decode (.fsmState code) = .ok i) (h : exec i s = .next t) :
    exec i (s.setProgram p) = .next (t.setProgram p) := by
  have hword := encode_of_decodeFsmState hd
  cases i with
  | nop | decode | decodeFull | reservedCmd | normText | normBytes | normInt | take | takeUint => cases hword
  | sIdle | sDone | sError | sSrr => cases h; rfl
  | sClassify =>
    rw [exec] at h ⊢
    cases hl : lookupSensor s.sensorMap s.block.fArb with
    | none => rw [execSClassify_unmapped hl] at h; cases h; exact execSClassify_unmapped hl
    | some ty => rw [execSClassify_mapped hl] at h; cases h; exact execSClassify_mapped hl
  | sSof | sArbId | sRtr | sIde | sExtId | sRtr2 | sReserved | sDlc => exact fieldStep_setProgram p h
  | sData | sCrc | sCrcDel | sAck | sAckDel | sEof | sIfs => exact fieldStep_setProgram p h

/-- With no turn prescribed, the step of an enabled block is the micro-step of the code in `STATE` (rule R181). -/
theorem step_enabled {s : State} (hr : s.block.reservedValue = none) (ht : s.turns = [])
    (he : s.block.enabled = true) : ∃ i, decode (.fsmState s.block.state) = .ok i ∧ step s = exec i s := by
  obtain ⟨i, hd⟩ := (decodeFsmState_ok_iff s.block.state).mpr (state_lt_of_reservedValue hr)
  exact ⟨i, hd, step_of_run hr (move_noTurn_enabled ht he) hd⟩

/-! The steps of a walk, to the state in which the block waits again. -/

/-- The block makes `m` micro-steps, one a step, to a state that enables none. -/
inductive State.WalksTo : State → Nat → State → Prop where
  | ended {s : State} (he : s.block.enabled = false) : s.WalksTo 0 s
  | more {s t u : State} {m : Nat} (he : s.block.enabled = true) (hs : step s = .next t) (h : t.WalksTo m u) :
    s.WalksTo (m + 1) u

section
variable {s t u : State} {m k : Nat}

theorem State.WalksTo.not_enabled (h : s.WalksTo m t) : t.block.enabled = false := by
  induction h with
  | ended he => exact he
  | more _ _ _ ih => exact ih

theorem State.WalksTo.runSteps_add (h : s.WalksTo m t) (k : Nat) : runSteps (m + k) s = runSteps k t := by
  induction h with
  | ended => rw [Nat.zero_add]
  | more _ hs _ ih => rw [Nat.add_right_comm, runSteps, hs]; exact ih

theorem State.WalksTo.enabled_of_lt (h : s.WalksTo m t) (hk : k < m) :
    ∃ u, runSteps k s = .next u ∧ u.block.enabled = true := by
  induction h generalizing k with
  | ended => exact absurd hk (Nat.not_lt_zero k)
  | @more s _ _ _ he hs _ ih =>
    cases k with
    | zero => exact ⟨s, rfl, he⟩
    | succ k => rw [runSteps, hs]; exact ih (Nat.lt_of_succ_lt_succ hk)

/-- A walk is the same whatever the host is to do after it. -/
theorem State.WalksTo.setProgram (p : List HostOp) (h : s.WalksTo m t) (hturns : s.turns = []) :
    (s.setProgram p).WalksTo m (t.setProgram p) := by
  induction h with
  | ended he => exact .ended he
  | @more s t _ _ he hs _ ih =>
    obtain ⟨hr, -⟩ := step_next hs
    obtain ⟨i, hd, hi⟩ := step_enabled hr hturns he
    have hexec : exec i s = .next t := hi ▸ hs
    have hrun : step (s.setProgram p) = exec i (s.setProgram p) := step_of_run hr (move_noTurn_enabled hturns he) hd
    obtain ⟨-, -, hkept, -⟩ := exec_keepsHost hexec
    exact .more he (hrun.trans (microStep_setProgram p hd hexec)) (ih (hkept.trans hturns))

/-- A legal machine with no turn prescribed, whose host has nothing to do. -/
structure State.Alone (s : State) : Prop where
  inv     : s.Inv
  turns   : s.turns = []
  program : s.program = []

/-- A block that waits, with a host that has nothing to do, stays as it is (rules R211, R252). -/
theorem State.Alone.runSteps_waiting (h : s.Alone) (he : s.block.enabled = false) (k : Nat) :
    runSteps k s = .next s := by
  have hstep : step s = .next s :=
    step_of_run (i := .nop) h.inv.block.reservedValue_eq_none
      ((move_noTurn_notEnabled h.turns he).trans (hostMove_nil h.program)) rfl
  induction k with
  | zero => rfl
  | succ k ih => rw [runSteps, hstep]; exact ih

theorem State.Alone.step_stepsOn (h : s.Alone) (he : s.block.enabled = true) :
    ∃ t, step s = .next t ∧ t.Alone ∧ s.block.StepsOn t.block := by
  obtain ⟨t, hs⟩ := legalStatesAlwaysStep s h.inv
  obtain ⟨i, hd, hi⟩ := step_enabled h.inv.block.reservedValue_eq_none h.turns he
  have hexec : exec i s = .next t := hi ▸ hs
  obtain ⟨-, hprogram, hturns, -⟩ := exec_keepsHost hexec
  exact ⟨t, hs, ⟨stepKeepsLegalStates s t h.inv hs, hturns.trans h.turns, hprogram.trans h.program⟩,
    microStep_stepsOn h.inv.block he (encode_of_decodeFsmState hd) hexec⟩

theorem stepsTaken_le_of_enabled {b : Block} (he : b.enabled = true) : b.stepsTaken ≤ 16 := by
  simp only [Block.enabled, Bool.and_eq_true, decide_eq_true_eq] at he
  unfold Block.stepsTaken
  split
  · omega
  · split <;> omega

/-- Every walk ends (rule R217): a micro-step that does not end it takes it one on, and none is enabled from 17 on. -/
theorem State.Alone.exists_walksTo {s : State} (h : s.Alone) :
    ∃ m t, s.WalksTo m t ∧ t.Alone ∧
      (t.block.state = Fsm.error ∨ t.block.stepsTaken = s.block.stepsTaken + m) := by
  cases he : s.block.enabled with
  | false => exact ⟨0, s, .ended he, h, .inr rfl⟩
  | true =>
    obtain ⟨t, hs, ht, herror | hon⟩ := h.step_stepsOn he
    · exact ⟨1, t, .more he hs (.ended (by simp [Block.enabled, herror])), ht, .inl herror⟩
    · have hle := stepsTaken_le_of_enabled he
      obtain ⟨m, u, hwalk, hu, hend⟩ := ht.exists_walksTo
      exact ⟨m + 1, u, .more he hs hwalk, hu, hend.imp_right fun e => by omega⟩
termination_by 17 - s.block.stepsTaken
decreasing_by omega

/-- A run that finds the block waiting has made the whole walk, and stayed at its end. -/
theorem State.WalksTo.eq_of_runSteps (h : s.WalksTo m t) (ht : t.Alone) (hrun : runSteps k s = .next u)
    (hu : u.block.enabled = false) : u = t := by
  obtain hk | hk := Nat.lt_or_ge k m
  · obtain ⟨v, hv, he⟩ := h.enabled_of_lt hk
    obtain rfl : v = u := Host.Outcome.next.inj (hv.symm.trans hrun)
    exact absurd he (by simp [hu])
  · obtain ⟨d, rfl⟩ := Nat.exists_eq_add_of_le hk
    rw [h.runSteps_add, ht.runSteps_waiting h.not_enabled] at hrun
    exact (Host.Outcome.next.inj hrun).symm

end

/-- Settles O58. With an empty program the host cannot start another decode, so the run of O57 to DONE is the walk, and
the code of DONE and the IDE bit tell its number of micro-steps; with the program back the walk is the same. -/
theorem framesTakeFourteenOrSeventeenSteps : Obligations.FramesTakeFourteenOrSeventeenSteps := by
  intro s ty f h hturns hstate hw n
  have halone : (s.setProgram []).Alone := ⟨⟨h.block, h.ports⟩, hturns, rfl⟩
  obtain ⟨m, t, hwalk, ht, hend⟩ := halone.exists_walksTo
  obtain ⟨k, u, -, hrun, -, -, hshows⟩ := microStepsComputeTheWalk _ halone.inv hturns hstate
  rw [State.setProgram_block, State.setProgram_sensorMap, hw] at hshows
  obtain ⟨hdone, -, hframe⟩ := hshows
  obtain rfl := hwalk.eq_of_runSteps ht hrun (by simp [Block.enabled, hdone])
  have hide : u.block.fIde = f.ide := congrArg Frame.ide hframe
  have hm : m = n := by
    have hcount : u.block.stepsTaken = m := by simpa [hdone, stepsTaken_sof hstate] using hend
    rw [← hcount, stepsTaken_done hdone, hide]
  have hwalk' : s.WalksTo m (u.setProgram s.program) := hwalk.setProgram s.program hturns
  rw [← hm]
  exact ⟨⟨_, hwalk'.runSteps_add 0, hdone⟩, fun k hk => hwalk'.enabled_of_lt hk⟩

end Sys2Proof.Machine

/-! PROOFS of the family 43_host_commands: commands that start no walk, the result view, and the library calls, whose
steps come down to the walk of O57 and to reading its result from the ports. -/

namespace Sys2Proof.Machine

/-! ### Commands that start no walk, and the result view -/

/-- Settles O12: the word's row, and its meaning in the model. -/
theorem nopChangesNothing : Obligations.NopChangesNothing := ⟨fun _ _ => rfl, fun _ => rfl⟩

/-- Settles O14: the reserved word's row and meaning, and the last case of the decode commands (O13). -/
theorem rejectedCommandsOnlySetOverrun : Obligations.RejectedCommandsOnlySetOverrun := by
  refine fun s l c => ⟨rfl, rfl, fun hidle hdone herror => ?_⟩
  obtain ⟨-, -, -, -, hbusy⟩ := commandsLatchAndStart s l c
  exact hbusy (by simp [hidle, hdone, herror])

/-- Settles O17: the condition of each port decides it. -/
theorem resultViewOnlyInDone : Obligations.ResultViewOnlyInDone := by
  refine fun b => ⟨fun hd => ?outside, fun hd => ⟨if_pos hd, if_pos hd⟩, fun _ hm => ?reduced,
    fun hd hm => if_pos ⟨hd, hm⟩⟩
  case outside => exact ⟨if_neg hd, if_neg hd, if_neg fun ⟨hd', _⟩ => hd hd'⟩
  case reduced => exact if_neg fun ⟨_, hm'⟩ => by simp [hm] at hm'

/-! ### Runs with no turn prescribed -/

/-- A legal machine over the table `map`, with no turn prescribed (rule R6, notes/assumptions/6.md). -/
structure State.Unscheduled (map : SensorMap) (s : State) : Prop where
  inv       : s.Inv
  turns     : s.turns = []
  sensorMap : s.sensorMap = map

/-- At most `k` steps lead from `s` to `t`. -/
def State.Reaches (s : State) (k : Nat) (t : State) : Prop := ∃ j, j ≤ k ∧ runSteps j s = .next t

section
variable {s t u : State} {map : SensorMap} {j k : Nat}

/-- A step takes its turn off the schedule. -/
theorem step_turns (h : step s = .next t) : t.turns = s.turns.tail := by
  obtain ⟨-, ⟨w, s', i, hm, -, he⟩ | ⟨w, s', hm, -, rfl⟩ | hm⟩ := step_next h
  · obtain ⟨-, -, hturns, -⟩ := move_run hm
    obtain ⟨-, -, hkept, -⟩ := exec_keepsHost he
    exact hkept.trans hturns
  · obtain ⟨-, -, hturns, -⟩ := move_run hm
    exact hturns
  · obtain ⟨-, -, hturns⟩ := move_done hm
    exact hturns

theorem State.Unscheduled.of_step (h : s.Unscheduled map) (hs : step s = .next t) : t.Unscheduled map where
  inv := stepKeepsLegalStates s t h.inv hs
  turns := by rw [step_turns hs, h.turns]; rfl
  sensorMap := (stepKeepsTheTable s t hs).trans h.sensorMap

theorem runSteps_succ (hs : step s = .next t) (k : Nat) : runSteps (k + 1) s = runSteps k t := by
  rw [runSteps, hs]

/-- A run of at least one step that answers has answered after the first. -/
theorem runSteps_succ_next (h : runSteps (k + 1) s = .next u) : ∃ t, step s = .next t ∧ runSteps k t = .next u := by
  rw [runSteps] at h
  cases hs : step s with
  | next t => rw [hs] at h; exact ⟨t, rfl, h⟩
  | fault r => rw [hs] at h; cases h
  | refused r => rw [hs] at h; cases h

theorem State.Unscheduled.of_runSteps (h : s.Unscheduled map) (hrun : runSteps k s = .next t) :
    t.Unscheduled map := by
  induction k generalizing s with
  | zero => cases hrun; exact h
  | succ k ih =>
    obtain ⟨u, hs, hrun⟩ := runSteps_succ_next hrun
    exact ih (h.of_step hs) hrun

theorem State.Reaches.of_step (hs : step s = .next t) (h : t.Reaches k u) : s.Reaches (k + 1) u := by
  obtain ⟨j, hj, hrun⟩ := h
  exact ⟨j + 1, Nat.succ_le_succ hj, (runSteps_succ hs j).trans hrun⟩

theorem State.Reaches.trans (h : s.Reaches j t) (h' : t.Reaches k u) : s.Reaches (j + k) u := by
  obtain ⟨i, hi, hrun⟩ := h
  induction i generalizing s j with
  | zero =>
    cases hrun
    obtain ⟨l, hl, hrun'⟩ := h'
    exact ⟨l, by omega, hrun'⟩
  | succ i ih =>
    obtain ⟨v, hs, hrun⟩ := runSteps_succ_next hrun
    obtain ⟨l, hl, hrun'⟩ := State.Reaches.of_step hs (ih i.le_refl hrun)
    exact ⟨l, by omega, hrun'⟩

/-! ### Every walk ends -/

/-- The micro-steps that are left (rules R183, R217). -/
theorem State.WalksTo.length_le (h : s.WalksTo k t) (ha : s.Alone) : k ≤ 17 - s.block.stepsTaken := by
  induction h with
  | ended => exact Nat.zero_le _
  | @more s t u k he hs hwalk ih =>
    have hle := stepsTaken_le_of_enabled he
    obtain ⟨t', hs', ht', hon⟩ := ha.step_stepsOn he
    obtain rfl : t' = t := Host.Outcome.next.inj (hs'.symm.trans hs)
    obtain herror | hon := hon
    · cases hwalk with
      | ended => omega
      | more he' => simp [Block.enabled, herror] at he'
    · have := ih ht'
      omega

/-- The block comes to wait, whatever the host is to do after it; when it walked, it does not wait in IDLE. -/
theorem State.Unscheduled.reaches_waiting (h : s.Unscheduled map) :
    ∃ t, s.Reaches 17 t ∧ t.block.enabled = false ∧ t.program = s.program ∧
      (s.block.enabled = true → t.block.state ≠ Fsm.idle) := by
  have halone : (s.setProgram []).Alone := ⟨⟨h.inv.block, h.inv.ports⟩, h.turns, rfl⟩
  obtain ⟨m, t, hwalk, -, hend⟩ := halone.exists_walksTo
  have hm : m ≤ 17 := (hwalk.length_le halone).trans (Nat.sub_le _ _)
  have hwalk' : s.WalksTo m (t.setProgram s.program) := hwalk.setProgram s.program h.turns
  refine ⟨_, ⟨m, hm, hwalk'.runSteps_add 0⟩, hwalk.not_enabled, rfl, fun he hidle => ?_⟩
  rw [State.setProgram_block] at hidle
  cases hwalk with
  | ended he' => exact absurd he (by simpa using he')
  | more =>
    obtain herror | hcount := hend
    · simp [hidle] at herror
    · simp [Block.stepsTaken, hidle] at hcount

theorem Block.Inv.quiescent_of_not_enabled {b : Block} (h : b.Inv) (he : b.enabled = false) : b.quiescent = true := by
  have hle := h.stateOk
  simp only [Block.enabled, Bool.and_eq_false_iff, decide_eq_false_iff_not] at he
  simp only [quiescent_iff, ← BitVec.toNat_inj, BitVec.toNat_ofNat]
  omega

end

/-- Settles O59: the walk comes to wait, in another state than IDLE. -/
theorem everyDecodeEnds : Obligations.EveryDecodeEnds := by
  intro s h hturns he
  have hs : s.Unscheduled s.sensorMap := ⟨h, hturns, rfl⟩
  obtain ⟨t, ⟨k, hk, hrun⟩, hwait, -, hidle⟩ := hs.reaches_waiting
  have hstate := (quiescent_iff _).mp ((hs.of_runSteps hrun).inv.block.quiescent_of_not_enabled hwait)
  exact ⟨k, t, hk, hrun, hstate.resolve_left (hidle he)⟩

/-! ### The ports show the walk's result -/

/-- The registers of an error name it again (rules R94, R95). -/
def WalkResult.Readable : WalkResult → Prop
  | .ok _ _ => True
  | .error e => errorOf e.kind e.argA e.argB = some e

section
variable {bits : BitSeq} {cur n v : Nat} {K : Nat → Nat → WalkResult} {r : WalkResult}

theorem takeAt_readable (hlen : bits.length < 256) (hn : n < 128) (hK : ∀ v, v < 2 ^ n → ∀ cur, (K v cur).Readable) :
    (takeAt bits cur n K).Readable := by
  obtain ⟨-, hshort, -, -⟩ := errorRegistersRoundTrip
  unfold takeAt
  split
  case isTrue => exact hshort _ _ hn ((Nat.sub_le _ _).trans_lt hlen)
  case isFalse => exact hK _ (fieldOf_lt bits cur n) _

theorem check_readable {x : Nat} {field : FixedField} (hv : v < 2 ^ 1) (hr : r.Readable) :
    (if v ≠ x then .error (.invalidFixedBit field v) else r).Readable := by
  obtain ⟨-, -, hfixed, -⟩ := errorRegistersRoundTrip
  split
  case isTrue => exact hfixed field v hv
  case isFalse => exact hr

theorem walkTail_readable (hlen : bits.length < 256) (ty : SensorType) (f : Frame) :
    (walkTail bits ty f cur).Readable := by
  unfold walkTail
  refine takeAt_readable hlen (by decide) fun rsv _ _ => ?_
  refine takeAt_readable hlen (by decide) fun dlc hdlc _ => ?_
  refine takeAt_readable hlen (by omega) fun data _ _ => ?_
  refine takeAt_readable hlen (by decide) fun crc _ _ => ?_
  refine takeAt_readable hlen (by decide) fun crcd hcrcd _ => check_readable hcrcd ?_
  refine takeAt_readable hlen (by decide) fun ack _ _ => ?_
  refine takeAt_readable hlen (by decide) fun ackd hackd _ => check_readable hackd ?_
  refine takeAt_readable hlen (by decide) fun eof _ _ => ?_
  exact takeAt_readable hlen (by decide) fun ifs _ _ => trivial

/-- Every argument of an error of the walk fits its register. -/
theorem walk_readable (hlen : bits.length < 256) (map : SensorMap) : (walk bits map).Readable := by
  obtain ⟨-, -, -, hunknown⟩ := errorRegistersRoundTrip
  unfold walk
  refine takeAt_readable hlen (by decide) fun sof hsof _ => check_readable hsof ?_
  refine takeAt_readable hlen (by decide) fun id hid _ => ?_
  split
  case h_1 => exact hunknown id hid
  case h_2 ty _ =>
    refine takeAt_readable hlen (by decide) fun rtr _ _ => takeAt_readable hlen (by decide) fun ide _ _ => ?_
    dsimp only
    split
    · refine takeAt_readable hlen (by decide) fun ext _ _ => takeAt_readable hlen (by decide) fun rtr2 _ _ => ?_
      exact walkTail_readable hlen _ _
    · exact walkTail_readable hlen _ _

end

section
variable {b : Block} {ty : SensorType} {f : Frame} {full : Bool}

theorem sensorOf_sensorCode (ty : SensorType) : sensorOf (sensorCode ty) = some ty := by cases ty <;> rfl

/-- In DONE the ports show the call's view of the frame in the registers (rules R216, R218). -/
theorem okResult_of_shows (hmode : b.mode = BitVec.ofBool full) (h : b.Shows (.ok ty f)) :
    okResult full b = some ((WalkResult.ok ty f).view full) := by
  obtain ⟨hdone, hsensor, rfl⟩ := h
  obtain ⟨-, hview, -, hframe⟩ := resultViewOnlyInDone b
  obtain ⟨hressensor, hresdata⟩ := hview hdone
  cases full with
  | false => simp [okResult, WalkResult.view, Block.frame, hressensor, hresdata, hsensor, sensorOf_sensorCode]
  | true =>
    simp [okResult, WalkResult.view, hressensor, hresdata, hsensor, sensorOf_sensorCode, hframe hdone hmode,
      framePortRoundTrip b]

end

/-! ### The host's steps of a library call -/

/-- At most `k` steps lead to a state in which the call has returned `r`, and the host goes on with `rest`. -/
def State.Returns (s : State) (k : Nat) (r : CallResult) (rest : List HostOp) : Prop :=
  ∃ t, s.Reaches k t ∧ t.program = rest ∧ t.returned = some r

section
variable {s t : State} {map : SensorMap} {full : Bool} {tag : BitVec 2} {raw : RawOperands} {rest : List HostOp}
  {bits : BitSeq} {r : CallResult} {j k : Nat}

theorem State.Returns.of_reaches (h : s.Reaches j t) (h' : t.Returns k r rest) : s.Returns (j + k) r rest := by
  obtain ⟨u, hreach, hend⟩ := h'
  exact ⟨u, h.trans hreach, hend⟩

theorem State.Returns.of_step (hs : step s = .next t) (h : t.Returns k r rest) : s.Returns (k + 1) r rest := by
  obtain ⟨u, hreach, hend⟩ := h
  exact ⟨u, hreach.of_step hs, hend⟩

theorem State.Returns.mono (h : s.Returns j r rest) (hk : j ≤ k) : s.Returns k r rest := by
  obtain ⟨u, ⟨i, hi, hrun⟩, hend⟩ := h
  exact ⟨u, ⟨i, hi.trans hk, hrun⟩, hend⟩

/-- A step that returns from the call. -/
theorem State.Returns.of_finish (hs : step s = .next (s.finishCall r rest)) : s.Returns 1 r rest :=
  ⟨_, ⟨1, Nat.le_refl 1, runSteps_succ hs 0⟩, rfl, rfl⟩

theorem hostMove_call (hp : s.program = .call full tag raw :: rest) :
    hostMove s = .run (.inputShape tag raw) (s.setProgram (.issue full :: rest)) := by
  simp [hostMove, hp]

theorem hostMove_issue (hp : s.program = .issue full :: rest) : hostMove s = issueMove full rest s := by
  simp [hostMove, hp]

theorem hostMove_collect (hp : s.program = .collect full :: rest) : hostMove s = collectMove full rest s := by
  simp [hostMove, hp]

/-- A message gives the host what the normalizer gives for it, whatever its tag (rules R93, R120, R127). -/
theorem step_message {s' : State} (hr : s.block.reservedValue = none) (hm : move s = .run (.inputShape tag raw) s') :
    step s = .next (s'.setNorm (normalizeTagged tag raw)) := by
  obtain ⟨rfl, hd⟩ | ⟨rfl, hd⟩ | ⟨rfl, hd⟩ | ⟨rfl, hd⟩ := decodeInputShape_cases tag raw
  · exact step_of_run hr hm hd
  · exact step_of_run hr hm hd
  · exact step_of_run hr hm hd
  · exact step_of_reject hr hm hd

/-- The call's command starts a decode in the call's mode over the ports of the hand-off (rules R131, R218). -/
theorem step_command {s' : State} (hr : s.block.reservedValue = none) (hm : move s = .run (commandWord full bits) s') :
    step s =
      .next (s'.setBlock (startDecode (BitVec.ofBool full) (toPortLen bits) (toPort bits) s'.block)) := by
  cases full with
  | false => exact step_of_run (i := .decode (toPortLen bits) (toPort bits)) hr hm rfl
  | true => exact step_of_run (i := .decodeFull (toPortLen bits) (toPort bits)) hr hm rfl

/-- A call that finds the block in DONE or ERROR returns the call's view of the result that the block shows. -/
theorem collectMove_of_shows {w : WalkResult} (hmode : s.block.mode = BitVec.ofBool full) (hw : w.Readable)
    (h : s.block.Shows w) : collectMove full rest s = .done (s.finishCall (w.view full) rest) := by
  cases w with
  | ok ty f =>
    rw [collectMove, if_pos (doneFlag_eq_one.mpr h.1), okResult_of_shows hmode h]
  | error e =>
    obtain ⟨herror, hkind, ha, hb⟩ := h
    have hnamed : errorOf s.block.errKind s.block.errA s.block.errB = some e := by rw [hkind, ha, hb]; exact hw
    rw [collectMove, if_neg (by simp [doneFlag_eq_one, herror]), if_pos (errFlag_eq_one.mpr herror), hnamed]
    rfl

/-- A call that is to collect from a block at SOF returns what the walk gives (rules R182, R218). -/
theorem State.WalksAt.returns (h : s.WalksAt bits 0 Fsm.sof) (hp : s.program = .collect full :: rest)
    (hmode : s.block.mode = BitVec.ofBool full) : s.Returns 18 ((walk bits s.sensorMap).view full) rest := by
  have hlen : bits.length < 256 := by rw [← h.bits, slice_length]; exact s.block.len.isLt
  obtain ⟨k, t, hk, hrun, hmode', hp', hshows⟩ := h.computes_walk
  have ht : t.Unscheduled s.sensorMap := State.Unscheduled.of_runSteps ⟨h.inv, h.turns, rfl⟩ hrun
  have hwait : t.block.enabled = false := by
    generalize walk bits s.sensorMap = w at hshows
    cases w <;> simp [Block.enabled, hshows.1]
  have hmove : move t = .done (t.finishCall ((walk bits s.sensorMap).view full) rest) :=
    calc move t = hostMove t := move_noTurn_notEnabled ht.turns hwait
      _ = collectMove full rest t := hostMove_collect (hp'.trans hp)
      _ = _ := collectMove_of_shows (hmode'.trans hmode) (walk_readable hlen _) hshows
  exact .of_reaches ⟨k, hk, hrun⟩ (.of_finish (step_of_done ht.inv.block.reservedValue_eq_none hmove))

theorem finish_ok {o : Option BitSeq} (h : finish o = .ok bits) : bits.length ≤ Config.maxBits := by
  cases o with
  | none => cases h
  | some bits' =>
    rw [finish] at h
    obtain ⟨hle, e⟩ | ⟨-, e⟩ := checkLength_cases bits' <;> rw [e] at h <;> cases h
    exact hle

/-- A sequence that the normalizer returns fits the ports (rule R126). -/
theorem normalizeTagged_ok (h : normalizeTagged tag raw = .ok bits) : bits.length ≤ Config.maxBits := by
  unfold normalizeTagged at h
  split_ifs at h <;> exact finish_ok h

/-- A call with its message normalized returns what the normalizer and the walk give (rules R128, R218, R219). -/
theorem State.Unscheduled.returns_of_issue (h : s.Unscheduled map) (hwait : s.block.enabled = false)
    (hp : s.program = .issue full :: rest) (hn : s.norm = some (normalizeTagged tag raw)) :
    s.Returns 19 (libraryResult full tag raw map) rest := by
  have hr := h.inv.block.reservedValue_eq_none
  have hmove : move s = issueMove full rest s := (move_noTurn_notEnabled h.turns hwait).trans (hostMove_issue hp)
  unfold libraryResult
  rw [issueMove, hn] at hmove
  cases hnorm : normalizeTagged tag raw with
  | malformedInput | frameTooLong =>
    rw [hnorm] at hmove
    exact State.Returns.mono (.of_finish (step_of_done hr hmove)) (by decide)
  | ok bits =>
    have hq : s.block.quiescent = true := h.inv.block.quiescent_of_not_enabled hwait
    have hlen := normalizeTagged_ok hnorm
    simp only [hnorm, hq, if_true] at hmove
    have hstep := step_command hr hmove
    rw [State.setProgram_block, startDecode_start _ _ hq (by rwa [toPortLen_toNat hlen])] at hstep
    have ht := h.of_step hstep
    have hbits : slice (toPort bits) 0 (toPortLen bits).toNat = bits := by rw [toPortLen_toNat hlen, slice_toPort hlen]
    rw [← ht.sensorMap]
    exact .of_step hstep (State.WalksAt.returns ⟨ht.inv, ht.turns, hbits, rfl, rfl⟩ rfl rfl)

end

/-- Settles O60: the walk that the block is in ends (17 steps), the message is normalized (1), and the call with its
message normalized returns (19). -/
theorem libraryCallsReturnTheWalk : Obligations.LibraryCallsReturnTheWalk := by
  intro s full tag raw rest h hturns hp
  have hs : s.Unscheduled s.sensorMap := ⟨h, hturns, rfl⟩
  obtain ⟨t, hreach, hwait, hp', -⟩ := hs.reaches_waiting
  have ht : t.Unscheduled s.sensorMap := by
    obtain ⟨k, -, hrun⟩ := hreach
    exact hs.of_runSteps hrun
  have hstep := step_message ht.inv.block.reservedValue_eq_none
    ((move_noTurn_notEnabled ht.turns hwait).trans (hostMove_call (hp'.trans hp)))
  have hreturns : s.Returns 37 (libraryResult full tag raw s.sensorMap) rest :=
    .of_reaches hreach (.of_step hstep ((ht.of_step hstep).returns_of_issue hwait rfl rfl))
  obtain ⟨u, ⟨k, hk, hrun⟩, hend⟩ := hreturns
  exact ⟨k, u, hk.trans (by decide), hrun, hend⟩

end Sys2Proof.Machine
